-- ==== Sys2Proof/Word.lean ====
section
/-!
DEFINITION. The value types of the core: bytes, 16-bit words, 32-bit longs and the
24-bit bus address (R7, R101). Names follow the spec: a "word" is 16 bits.
-/

namespace Sys2Proof

/-- One byte of memory, the smallest addressable unit (R106). -/
abbrev Byte := BitVec 8

/-- A 16-bit word: an opcode word, an extension word, half of a long (R104, R150). -/
abbrev Word := BitVec 16

/-- A 32-bit long: a register, an address before translation, the pc (R40, R42, R45). -/
abbrev Long := BitVec 32

/-- The address the core puts on its bus, `addr[23:0]` (R101). -/
abbrev Addr := BitVec 24

/-- A register number 0-7. -/
abbrev Reg := Fin 8

/-- An interrupt level 0-7 (R59). -/
abbrev Level := Fin 8

end Sys2Proof
end

