-- ==== Sys2Proof/Syntax.lean ====
section
/-!
DEFINITION. The syntax of the machine: addressing modes, conditions and the ONE inductive of
instructions, one constructor per row of spec/opcode_table.json. An `Instr` holds what the opcode
word says (R150: the opcode word alone decides row and length); the extension words are fetched
by the meaning, in the order of R165 (log 12).
-/

namespace Sys2Proof

/-- Operand size (R156). -/
inductive Size where
  | b | w | l
  deriving DecidableEq, Repr

/-- The twelve addressing modes of R152, by name. Extension words are not part of it. -/
inductive EA where
  | dreg (n : Reg)      -- Dn
  | areg (n : Reg)      -- An
  | ind (n : Reg)       -- (An)
  | postInc (n : Reg)   -- (An)+
  | preDec (n : Reg)    -- -(An)
  | disp (n : Reg)      -- (d16,An)
  | index (n : Reg)     -- (d8,An,Xn)
  | absW                -- (xxx).W
  | absL                -- (xxx).L
  | pcDisp              -- (d16,PC)
  | pcIndex             -- (d8,PC,Xn)
  | imm                 -- #imm
  deriving DecidableEq, Repr

/-- The EA classes of R153. -/
inductive EAClass where
  | all | data | mem | ctrl | alt | dalt | malt | calt | dataNoImm | movemRM | movemMR
  deriving DecidableEq, Repr

/-- The sixteen conditions of R50, in the order of their codes. -/
inductive Cond where
  | t | f | hi | ls | cc | cs | ne | eq | vc | vs | pl | mi | ge | lt | gt | le
  deriving DecidableEq, Repr

/-- The count operand of a register shift (R157, R350): a 3-bit field where 0 stands for 8, or
a data register. -/
inductive Count where
  | imm (c : Reg)
  | reg (c : Reg)
  deriving DecidableEq, Repr

/-- The instructions. `x` is the field at bits 11:9, `y` the field at bits 2:0 (R200). -/
inductive Instr where
  /-- ORI-CCR: immediate to CCR (R462). -/
  | oriCcr
  /-- ORI-SR: immediate to SR (R465). -/
  | oriSr
  /-- ANDI-CCR: immediate to CCR (R461). -/
  | andiCcr
  /-- ANDI-SR: immediate to SR (R464). -/
  | andiSr
  /-- EORI-CCR: immediate to CCR (R463). -/
  | eoriCcr
  /-- EORI-SR: immediate to SR (R466). -/
  | eoriSr
  /-- ORI: #imm,ea (R326). -/
  | ori (sz : Size) (ea : EA)
  /-- ANDI: #imm,ea (R323). -/
  | andi (sz : Size) (ea : EA)
  /-- SUBI: #imm,ea (R261). -/
  | subi (sz : Size) (ea : EA)
  /-- ADDI: #imm,ea (R254). -/
  | addi (sz : Size) (ea : EA)
  /-- EORI: #imm,ea (R328). -/
  | eori (sz : Size) (ea : EA)
  /-- CMPI: #imm,ea (R267). -/
  | cmpi (sz : Size) (ea : EA)
  /-- BTST-S: #n,ea (R382). -/
  | btstS (ea : EA)
  /-- BCHG-S: #n,ea (R384). -/
  | bchgS (ea : EA)
  /-- BCLR-S: #n,ea (R386). -/
  | bclrS (ea : EA)
  /-- BSET-S: #n,ea (R388). -/
  | bsetS (ea : EA)
  /-- BTST-D: Dx,ea (R381). -/
  | btstD (x : Reg) (ea : EA)
  /-- BCHG-D: Dx,ea (R383). -/
  | bchgD (x : Reg) (ea : EA)
  /-- BCLR-D: Dx,ea (R385). -/
  | bclrD (x : Reg) (ea : EA)
  /-- BSET-D: Dx,ea (R387). -/
  | bsetD (x : Reg) (ea : EA)
  /-- MOVEP.W-M2R: (d16,Ay),Dx (R206). -/
  | movepWM2R (x : Reg) (y : Reg)
  /-- MOVEP.L-M2R: (d16,Ay),Dx (R206). -/
  | movepLM2R (x : Reg) (y : Reg)
  /-- MOVEP.W-R2M: Dx,(d16,Ay) (R207). -/
  | movepWR2M (x : Reg) (y : Reg)
  /-- MOVEP.L-R2M: Dx,(d16,Ay) (R207). -/
  | movepLR2M (x : Reg) (y : Reg)
  /-- MOVE.B: src,dst (R201). -/
  | moveB (src : EA) (dst : EA)
  /-- MOVE.W: src,dst (R201). -/
  | moveW (src : EA) (dst : EA)
  /-- MOVE.L: src,dst (R201). -/
  | moveL (src : EA) (dst : EA)
  /-- MOVEA.W: src,Ax (R202). -/
  | moveaW (src : EA) (x : Reg)
  /-- MOVEA.L: src,Ax (R202). -/
  | moveaL (src : EA) (x : Reg)
  /-- MOVE-from-SR: SR,ea (R469). -/
  | moveFromSr (ea : EA)
  /-- MOVE-to-CCR: ea,CCR (R467). -/
  | moveToCcr (ea : EA)
  /-- MOVE-to-SR: ea,SR (R468). -/
  | moveToSr (ea : EA)
  /-- NEGX: ea (R271). -/
  | negx (sz : Size) (ea : EA)
  /-- CLR: ea (R272). -/
  | clr (sz : Size) (ea : EA)
  /-- NEG: ea (R270). -/
  | neg (sz : Size) (ea : EA)
  /-- NOT: ea (R329). -/
  | notEa (sz : Size) (ea : EA)
  /-- TST: ea (R269). -/
  | tst (sz : Size) (ea : EA)
  /-- NBCD: ea (R405). -/
  | nbcd (ea : EA)
  /-- SWAP: Dy (R211). -/
  | swap (y : Reg)
  /-- PEA: ea (R209). -/
  | pea (ea : EA)
  /-- EXT.W: Dy (R273). -/
  | extW (y : Reg)
  /-- EXT.L: Dy (R274). -/
  | extL (y : Reg)
  /-- MOVEM.W-R2M: list,ea (R204). -/
  | movemWR2M (ea : EA)
  /-- MOVEM.L-R2M: list,ea (R204). -/
  | movemLR2M (ea : EA)
  /-- TAS: ea (R390). -/
  | tas (ea : EA)
  /-- ILLEGAL: the designated illegal word (R476). -/
  | illegal
  /-- MOVEM.W-M2R: ea,list (R205). -/
  | movemWM2R (ea : EA)
  /-- MOVEM.L-M2R: ea,list (R205). -/
  | movemLM2R (ea : EA)
  /-- CHK: ea,Dx (R279). -/
  | chk (x : Reg) (ea : EA)
  /-- LEA: ea,Ax (R208). -/
  | lea (x : Reg) (ea : EA)
  /-- TRAP: #v (R473). -/
  | trap (v : Fin 16)
  /-- LINK: Ay,#d16 (R212). -/
  | link (y : Reg)
  /-- UNLK: Ay (R213). -/
  | unlk (y : Reg)
  /-- MOVE-to-USP: Ay,USP (R470). -/
  | moveToUsp (y : Reg)
  /-- MOVE-from-USP: USP,Ay (R471). -/
  | moveFromUsp (y : Reg)
  /-- RESET: no operand in the opcode word (R474). -/
  | reset
  /-- NOP: no operand in the opcode word (R430). -/
  | nop
  /-- STOP: no operand in the opcode word (R475). -/
  | stop
  /-- RTE: no operand in the opcode word (R472). -/
  | rte
  /-- RTS: no operand in the opcode word (R428). -/
  | rts
  /-- TRAPV: no operand in the opcode word (R431). -/
  | trapv
  /-- RTR: no operand in the opcode word (R429). -/
  | rtr
  /-- JSR: ea (R427). -/
  | jsr (ea : EA)
  /-- JMP: ea (R426). -/
  | jmp (ea : EA)
  /-- ADDQ.B: #data,ea (field q: 0 stands for 8) (R255). -/
  | addqB (q : Reg) (ea : EA)
  /-- ADDQ.WL: #data,ea (field q: 0 stands for 8) (R255). -/
  | addqWL (q : Reg) (sz : Size) (ea : EA)
  /-- SUBQ.B: #data,ea (field q: 0 stands for 8) (R262). -/
  | subqB (q : Reg) (ea : EA)
  /-- SUBQ.WL: #data,ea (field q: 0 stands for 8) (R262). -/
  | subqWL (q : Reg) (sz : Size) (ea : EA)
  /-- DBcc: Dy,label (R424). -/
  | dbcc (cond : Cond) (y : Reg)
  /-- Scc: ea (R425). -/
  | scc (cond : Cond) (ea : EA)
  /-- BRA: label (R422). -/
  | bra (d8 : Byte)
  /-- BSR: label (R423). -/
  | bsr (d8 : Byte)
  /-- Bcc: label (R421). -/
  | bcc (cond : Cond) (d8 : Byte)
  /-- MOVEQ: #d8,Dx (R203). -/
  | moveq (x : Reg) (d8 : Byte)
  /-- SUB-EA2D.B: ea,Dx (R258). -/
  | subEaDB (x : Reg) (ea : EA)
  /-- SUB-EA2D.WL: ea,Dx (R258). -/
  | subEaDWL (x : Reg) (sz : Size) (ea : EA)
  /-- SUB-D2EA: Dx,ea (R259). -/
  | subDEa (x : Reg) (sz : Size) (ea : EA)
  /-- SUBA.W: ea,Ax (R260). -/
  | subaW (x : Reg) (ea : EA)
  /-- SUBA.L: ea,Ax (R260). -/
  | subaL (x : Reg) (ea : EA)
  /-- SUBX-R: Dy,Dx (R263). -/
  | subxR (x : Reg) (sz : Size) (y : Reg)
  /-- SUBX-M: -(Ay),-(Ax) (R264). -/
  | subxM (x : Reg) (sz : Size) (y : Reg)
  /-- ADD-EA2D.B: ea,Dx (R251). -/
  | addEaDB (x : Reg) (ea : EA)
  /-- ADD-EA2D.WL: ea,Dx (R251). -/
  | addEaDWL (x : Reg) (sz : Size) (ea : EA)
  /-- ADD-D2EA: Dx,ea (R252). -/
  | addDEa (x : Reg) (sz : Size) (ea : EA)
  /-- ADDA.W: ea,Ax (R253). -/
  | addaW (x : Reg) (ea : EA)
  /-- ADDA.L: ea,Ax (R253). -/
  | addaL (x : Reg) (ea : EA)
  /-- ADDX-R: Dy,Dx (R256). -/
  | addxR (x : Reg) (sz : Size) (y : Reg)
  /-- ADDX-M: -(Ay),-(Ax) (R257). -/
  | addxM (x : Reg) (sz : Size) (y : Reg)
  /-- OR-EA2D: ea,Dx (R324). -/
  | orEaD (x : Reg) (sz : Size) (ea : EA)
  /-- OR-D2EA: Dx,ea (R325). -/
  | orDEa (x : Reg) (sz : Size) (ea : EA)
  /-- DIVU: ea,Dx (R277). -/
  | divu (x : Reg) (ea : EA)
  /-- DIVS: ea,Dx (R278). -/
  | divs (x : Reg) (ea : EA)
  /-- SBCD-R: Dy,Dx (R403). -/
  | sbcdR (x : Reg) (y : Reg)
  /-- SBCD-M: -(Ay),-(Ax) (R404). -/
  | sbcdM (x : Reg) (y : Reg)
  /-- CMP.B: ea,Dx (R265). -/
  | cmpB (x : Reg) (ea : EA)
  /-- CMP.WL: ea,Dx (R265). -/
  | cmpWL (x : Reg) (sz : Size) (ea : EA)
  /-- CMPA.W: ea,Ax (R266). -/
  | cmpaW (x : Reg) (ea : EA)
  /-- CMPA.L: ea,Ax (R266). -/
  | cmpaL (x : Reg) (ea : EA)
  /-- EOR: Dx,ea (R327). -/
  | eor (x : Reg) (sz : Size) (ea : EA)
  /-- CMPM: (Ay)+,(Ax)+ (R268). -/
  | cmpm (x : Reg) (sz : Size) (y : Reg)
  /-- AND-EA2D: ea,Dx (R321). -/
  | andEaD (x : Reg) (sz : Size) (ea : EA)
  /-- AND-D2EA: Dx,ea (R322). -/
  | andDEa (x : Reg) (sz : Size) (ea : EA)
  /-- MULU: ea,Dx (R275). -/
  | mulu (x : Reg) (ea : EA)
  /-- MULS: ea,Dx (R276). -/
  | muls (x : Reg) (ea : EA)
  /-- ABCD-R: Dy,Dx (R401). -/
  | abcdR (x : Reg) (y : Reg)
  /-- ABCD-M: -(Ay),-(Ax) (R402). -/
  | abcdM (x : Reg) (y : Reg)
  /-- EXG-DD: Dx,Dy (R210). -/
  | exgDD (x : Reg) (y : Reg)
  /-- EXG-AA: Ax,Ay (R210). -/
  | exgAA (x : Reg) (y : Reg)
  /-- EXG-DA: Dx,Ay (R210). -/
  | exgDA (x : Reg) (y : Reg)
  /-- ASR-R: #n,Dy or Dc,Dy (R352). -/
  | asrR (n : Count) (sz : Size) (y : Reg)
  /-- ASR-M: ea, by one (R360). -/
  | asrM (ea : EA)
  /-- ASL-R: #n,Dy or Dc,Dy (R351). -/
  | aslR (n : Count) (sz : Size) (y : Reg)
  /-- ASL-M: ea, by one (R359). -/
  | aslM (ea : EA)
  /-- LSR-R: #n,Dy or Dc,Dy (R354). -/
  | lsrR (n : Count) (sz : Size) (y : Reg)
  /-- LSR-M: ea, by one (R362). -/
  | lsrM (ea : EA)
  /-- LSL-R: #n,Dy or Dc,Dy (R353). -/
  | lslR (n : Count) (sz : Size) (y : Reg)
  /-- LSL-M: ea, by one (R361). -/
  | lslM (ea : EA)
  /-- ROXR-R: #n,Dy or Dc,Dy (R358). -/
  | roxrR (n : Count) (sz : Size) (y : Reg)
  /-- ROXR-M: ea, by one (R363). -/
  | roxrM (ea : EA)
  /-- ROXL-R: #n,Dy or Dc,Dy (R357). -/
  | roxlR (n : Count) (sz : Size) (y : Reg)
  /-- ROXL-M: ea, by one (R364). -/
  | roxlM (ea : EA)
  /-- ROR-R: #n,Dy or Dc,Dy (R356). -/
  | rorR (n : Count) (sz : Size) (y : Reg)
  /-- ROR-M: ea, by one (R365). -/
  | rorM (ea : EA)
  /-- ROL-R: #n,Dy or Dc,Dy (R355). -/
  | rolR (n : Count) (sz : Size) (y : Reg)
  /-- ROL-M: ea, by one (R366). -/
  | rolM (ea : EA)
  /-- LINE-A: word 0xAwww (R477). -/
  | lineA (w : BitVec 12)
  /-- LINE-F: word 0xFwww (R478). -/
  | lineF (w : BitVec 12)
  deriving DecidableEq, Repr

end Sys2Proof
end

