-- ==== Sys2Proof/WellFormed.lean ====
section
/-!
DEFINITION. Which instructions the opcode table has: the EA class of each row (R153, and the
"class" entries of spec/opcode_table.json), the sizes of the rows that lack the byte size, and
the conditions of Bcc (R169). The decoder answers only well-formed instructions.
-/

namespace Sys2Proof

namespace EA

/-- The EA classes of R153, as sets of modes. -/
def inClass : EAClass → EA → Bool
  | .all, _ => true
  | .data, .areg _ => false
  | .data, _ => true
  | .mem, .dreg _ => false
  | .mem, .areg _ => false
  | .mem, _ => true
  | .ctrl, .ind _ | .ctrl, .disp _ | .ctrl, .index _ | .ctrl, .absW | .ctrl, .absL
  | .ctrl, .pcDisp | .ctrl, .pcIndex => true
  | .ctrl, _ => false
  | .alt, .pcDisp | .alt, .pcIndex | .alt, .imm => false
  | .alt, _ => true
  | .dalt, .areg _ | .dalt, .pcDisp | .dalt, .pcIndex | .dalt, .imm => false
  | .dalt, _ => true
  | .malt, .dreg _ | .malt, .areg _ | .malt, .pcDisp | .malt, .pcIndex | .malt, .imm => false
  | .malt, _ => true
  | .calt, .ind _ | .calt, .disp _ | .calt, .index _ | .calt, .absW | .calt, .absL => true
  | .calt, _ => false
  | .dataNoImm, .areg _ | .dataNoImm, .imm => false
  | .dataNoImm, _ => true
  | .movemRM, .ind _ | .movemRM, .preDec _ | .movemRM, .disp _ | .movemRM, .index _
  | .movemRM, .absW | .movemRM, .absL => true
  | .movemRM, _ => false
  | .movemMR, .ind _ | .movemMR, .postInc _ | .movemMR, .disp _ | .movemMR, .index _
  | .movemMR, .absW | .movemMR, .absL | .movemMR, .pcDisp | .movemMR, .pcIndex => true
  | .movemMR, _ => false

end EA

namespace Instr

/-- The instruction is one of spec/opcode_table.json: its operands meet the field constraints
of its row (R153, R166-R170). -/
def wf : Instr → Bool
  | .oriCcr => true
  | .oriSr => true
  | .andiCcr => true
  | .andiSr => true
  | .eoriCcr => true
  | .eoriSr => true
  | .ori _ ea => ea.inClass .dalt
  | .andi _ ea => ea.inClass .dalt
  | .subi _ ea => ea.inClass .dalt
  | .addi _ ea => ea.inClass .dalt
  | .eori _ ea => ea.inClass .dalt
  | .cmpi _ ea => ea.inClass .dalt
  | .btstS ea => ea.inClass .dataNoImm
  | .bchgS ea => ea.inClass .dalt
  | .bclrS ea => ea.inClass .dalt
  | .bsetS ea => ea.inClass .dalt
  | .btstD _ ea => ea.inClass .data
  | .bchgD _ ea => ea.inClass .dalt
  | .bclrD _ ea => ea.inClass .dalt
  | .bsetD _ ea => ea.inClass .dalt
  | .movepWM2R _ _ => true
  | .movepLM2R _ _ => true
  | .movepWR2M _ _ => true
  | .movepLR2M _ _ => true
  | .moveB src dst => src.inClass .data && dst.inClass .dalt
  | .moveW src dst => src.inClass .all && dst.inClass .dalt
  | .moveL src dst => src.inClass .all && dst.inClass .dalt
  | .moveaW src _ => src.inClass .all
  | .moveaL src _ => src.inClass .all
  | .moveFromSr ea => ea.inClass .dalt
  | .moveToCcr ea => ea.inClass .data
  | .moveToSr ea => ea.inClass .data
  | .negx _ ea => ea.inClass .dalt
  | .clr _ ea => ea.inClass .dalt
  | .neg _ ea => ea.inClass .dalt
  | .notEa _ ea => ea.inClass .dalt
  | .tst _ ea => ea.inClass .dalt
  | .nbcd ea => ea.inClass .dalt
  | .swap _ => true
  | .pea ea => ea.inClass .ctrl
  | .extW _ => true
  | .extL _ => true
  | .movemWR2M ea => ea.inClass .movemRM
  | .movemLR2M ea => ea.inClass .movemRM
  | .tas ea => ea.inClass .dalt
  | .illegal => true
  | .movemWM2R ea => ea.inClass .movemMR
  | .movemLM2R ea => ea.inClass .movemMR
  | .chk _ ea => ea.inClass .data
  | .lea _ ea => ea.inClass .ctrl
  | .trap _ => true
  | .link _ => true
  | .unlk _ => true
  | .moveToUsp _ => true
  | .moveFromUsp _ => true
  | .reset => true
  | .nop => true
  | .stop => true
  | .rte => true
  | .rts => true
  | .trapv => true
  | .rtr => true
  | .jsr ea => ea.inClass .ctrl
  | .jmp ea => ea.inClass .ctrl
  | .addqB _ ea => ea.inClass .dalt
  | .addqWL _ sz ea => sz != .b && ea.inClass .alt
  | .subqB _ ea => ea.inClass .dalt
  | .subqWL _ sz ea => sz != .b && ea.inClass .alt
  | .dbcc _ _ => true
  | .scc _ ea => ea.inClass .dalt
  | .bra _ => true
  | .bsr _ => true
  | .bcc cond _ => cond != .t && cond != .f
  | .moveq _ _ => true
  | .subEaDB _ ea => ea.inClass .data
  | .subEaDWL _ sz ea => sz != .b && ea.inClass .all
  | .subDEa _ _ ea => ea.inClass .malt
  | .subaW _ ea => ea.inClass .all
  | .subaL _ ea => ea.inClass .all
  | .subxR _ _ _ => true
  | .subxM _ _ _ => true
  | .addEaDB _ ea => ea.inClass .data
  | .addEaDWL _ sz ea => sz != .b && ea.inClass .all
  | .addDEa _ _ ea => ea.inClass .malt
  | .addaW _ ea => ea.inClass .all
  | .addaL _ ea => ea.inClass .all
  | .addxR _ _ _ => true
  | .addxM _ _ _ => true
  | .orEaD _ _ ea => ea.inClass .data
  | .orDEa _ _ ea => ea.inClass .malt
  | .divu _ ea => ea.inClass .data
  | .divs _ ea => ea.inClass .data
  | .sbcdR _ _ => true
  | .sbcdM _ _ => true
  | .cmpB _ ea => ea.inClass .data
  | .cmpWL _ sz ea => sz != .b && ea.inClass .all
  | .cmpaW _ ea => ea.inClass .all
  | .cmpaL _ ea => ea.inClass .all
  | .eor _ _ ea => ea.inClass .dalt
  | .cmpm _ _ _ => true
  | .andEaD _ _ ea => ea.inClass .data
  | .andDEa _ _ ea => ea.inClass .malt
  | .mulu _ ea => ea.inClass .data
  | .muls _ ea => ea.inClass .data
  | .abcdR _ _ => true
  | .abcdM _ _ => true
  | .exgDD _ _ => true
  | .exgAA _ _ => true
  | .exgDA _ _ => true
  | .asrR _ _ _ => true
  | .asrM ea => ea.inClass .malt
  | .aslR _ _ _ => true
  | .aslM ea => ea.inClass .malt
  | .lsrR _ _ _ => true
  | .lsrM ea => ea.inClass .malt
  | .lslR _ _ _ => true
  | .lslM ea => ea.inClass .malt
  | .roxrR _ _ _ => true
  | .roxrM ea => ea.inClass .malt
  | .roxlR _ _ _ => true
  | .roxlM ea => ea.inClass .malt
  | .rorR _ _ _ => true
  | .rorM ea => ea.inClass .malt
  | .rolR _ _ _ => true
  | .rolM ea => ea.inClass .malt
  | .lineA _ => true
  | .lineF _ => true

end Instr

end Sys2Proof
end

