-- ==== Sys2Proof/Decode.lean ====
section
/-!
DEFINITION. The decoder, from the opcode map R166-R171, and after it the encoder, from the
"encoding" column of spec/opcode_table.json. The opcode word alone decides the row (R150), so
`decode` reads one word; a word that is no row's is rejected by the name `unassigned` (R171),
and a byte string shorter than one word by the name `truncated`.
-/

namespace Sys2Proof

/-- Why a string of bytes is no instruction. -/
inductive DecodeError where
  /-- The opcode word matches no row of the table: IllegalInstruction (R171, R480). -/
  | unassigned
  /-- Fewer bytes than an opcode word has. -/
  | truncated
  deriving DecidableEq, Repr

/-! ### Fields of an opcode word -/

/-- The register number in bits `lo+2 : lo`. -/
def regAt (w : Word) (lo : Nat) : Reg := (w.extractLsb' lo 3).toFin

/-- Bits `lo+1 : lo`, as a number. -/
def twoBits (w : Word) (lo : Nat) : Nat := (w.extractLsb' lo 2).toNat

/-- Bits `lo+2 : lo`, as a number. -/
def threeBits (w : Word) (lo : Nat) : Nat := (w.extractLsb' lo 3).toNat

/-- The standard size field, bits 7:6 (R156): `11` selects another instruction. -/
def sizeAt (w : Word) : Option Size :=
  match twoBits w 6 with
  | 0 => some .b
  | 1 => some .w
  | 2 => some .l
  | _ => none

/-- The addressing mode of an EA field (R152). -/
def eaOfFields (mode : Nat) (reg : Reg) : Option EA :=
  match mode with
  | 0 => some (.dreg reg)
  | 1 => some (.areg reg)
  | 2 => some (.ind reg)
  | 3 => some (.postInc reg)
  | 4 => some (.preDec reg)
  | 5 => some (.disp reg)
  | 6 => some (.index reg)
  | _ =>
    match reg.val with
    | 0 => some .absW
    | 1 => some .absL
    | 2 => some .pcDisp
    | 3 => some .pcIndex
    | 4 => some .imm
    | _ => none

/-- The EA field at bits 5:0, when it is of the class (R152, R153). -/
def eaIn (cls : EAClass) (w : Word) : Option EA :=
  (eaOfFields (threeBits w 3) (regAt w 0)).filter (EA.inClass cls)

/-- The MOVE destination field: register 11:9, mode 8:6, of class DALT (R167). -/
def moveDst (w : Word) : Option EA :=
  (eaOfFields (threeBits w 6) (regAt w 9)).filter (EA.inClass .dalt)

/-- The conditions by their codes (R50). -/
def condOf (code : Nat) : Cond :=
  match code with
  | 0 => .t | 1 => .f | 2 => .hi | 3 => .ls | 4 => .cc | 5 => .cs | 6 => .ne | 7 => .eq
  | 8 => .vc | 9 => .vs | 10 => .pl | 11 => .mi | 12 => .ge | 13 => .lt | 14 => .gt | _ => .le

/-- The condition in bits 11:8. -/
def condAt (w : Word) : Cond := condOf (w.extractLsb' 8 4).toNat

/-- The count operand of a register shift: bits 11:9, and bit 5 that says which it is (R350). -/
def countAt (w : Word) : Count := if w.getLsbD 5 then .reg (regAt w 9) else .imm (regAt w 9)

/-! ### The lines of the opcode map -/

/-- Line 0: immediate, bit and MOVEP instructions (R166). -/
def decodeLine0 (w : Word) : Option Instr :=
  if w = 0x003C then some .oriCcr
  else if w = 0x007C then some .oriSr
  else if w = 0x023C then some .andiCcr
  else if w = 0x027C then some .andiSr
  else if w = 0x0A3C then some .eoriCcr
  else if w = 0x0A7C then some .eoriSr
  else if w.getLsbD 8 then
    if threeBits w 3 = 1 then
      match twoBits w 6 with
      | 0 => some (.movepWM2R (regAt w 9) (regAt w 0))
      | 1 => some (.movepLM2R (regAt w 9) (regAt w 0))
      | 2 => some (.movepWR2M (regAt w 9) (regAt w 0))
      | _ => some (.movepLR2M (regAt w 9) (regAt w 0))
    else
      match twoBits w 6 with
      | 0 => (eaIn .data w).map (.btstD (regAt w 9))
      | 1 => (eaIn .dalt w).map (.bchgD (regAt w 9))
      | 2 => (eaIn .dalt w).map (.bclrD (regAt w 9))
      | _ => (eaIn .dalt w).map (.bsetD (regAt w 9))
  else
    match threeBits w 9 with
    | 0 => (sizeAt w).bind fun sz => (eaIn .dalt w).map (.ori sz)
    | 1 => (sizeAt w).bind fun sz => (eaIn .dalt w).map (.andi sz)
    | 2 => (sizeAt w).bind fun sz => (eaIn .dalt w).map (.subi sz)
    | 3 => (sizeAt w).bind fun sz => (eaIn .dalt w).map (.addi sz)
    | 4 =>
      match twoBits w 6 with
      | 0 => (eaIn .dataNoImm w).map .btstS
      | 1 => (eaIn .dalt w).map .bchgS
      | 2 => (eaIn .dalt w).map .bclrS
      | _ => (eaIn .dalt w).map .bsetS
    | 5 => (sizeAt w).bind fun sz => (eaIn .dalt w).map (.eori sz)
    | 6 => (sizeAt w).bind fun sz => (eaIn .dalt w).map (.cmpi sz)
    | _ => none

/-- Line 1: MOVE.B (R167). -/
def decodeLine1 (w : Word) : Option Instr :=
  (eaIn .data w).bind fun src => (moveDst w).map (.moveB src)

/-- Line 2: MOVE.L and MOVEA.L (R167). -/
def decodeLine2 (w : Word) : Option Instr :=
  if threeBits w 6 = 1 then (eaIn .all w).map fun src => .moveaL src (regAt w 9)
  else (eaIn .all w).bind fun src => (moveDst w).map (.moveL src)

/-- Line 3: MOVE.W and MOVEA.W (R167). -/
def decodeLine3 (w : Word) : Option Instr :=
  if threeBits w 6 = 1 then (eaIn .all w).map fun src => .moveaW src (regAt w 9)
  else (eaIn .all w).bind fun src => (moveDst w).map (.moveW src)

/-- Words `0x4E00-0x4E7F`: TRAP, LINK, UNLK, MOVE USP and the one-word instructions (R168). -/
def decodeMisc (w : Word) : Option Instr :=
  match (w.extractLsb' 3 4).toNat with
  | 8 | 9 => some (.trap (w.extractLsb' 0 4).toFin)
  | 10 => some (.link (regAt w 0))
  | 11 => some (.unlk (regAt w 0))
  | 12 => some (.moveToUsp (regAt w 0))
  | 13 => some (.moveFromUsp (regAt w 0))
  | 14 =>
    match threeBits w 0 with
    | 0 => some .reset
    | 1 => some .nop
    | 2 => some .stop
    | 3 => some .rte
    | 5 => some .rts
    | 6 => some .trapv
    | 7 => some .rtr
    | _ => none
  | _ => none

/-- Line 4: miscellaneous instructions (R168). -/
def decodeLine4 (w : Word) : Option Instr :=
  if w.getLsbD 8 then
    match twoBits w 6 with
    | 2 => (eaIn .data w).map (.chk (regAt w 9))
    | 3 => (eaIn .ctrl w).map (.lea (regAt w 9))
    | _ => none
  else
    match threeBits w 9 with
    | 0 =>
      match sizeAt w with
      | some sz => (eaIn .dalt w).map (.negx sz)
      | none => (eaIn .dalt w).map .moveFromSr
    | 1 => (sizeAt w).bind fun sz => (eaIn .dalt w).map (.clr sz)
    | 2 =>
      match sizeAt w with
      | some sz => (eaIn .dalt w).map (.neg sz)
      | none => (eaIn .data w).map .moveToCcr
    | 3 =>
      match sizeAt w with
      | some sz => (eaIn .dalt w).map (.notEa sz)
      | none => (eaIn .data w).map .moveToSr
    | 4 =>
      match twoBits w 6 with
      | 0 => (eaIn .dalt w).map .nbcd
      | 1 => if threeBits w 3 = 0 then some (.swap (regAt w 0)) else (eaIn .ctrl w).map .pea
      | 2 => if threeBits w 3 = 0 then some (.extW (regAt w 0)) else (eaIn .movemRM w).map .movemWR2M
      | _ => if threeBits w 3 = 0 then some (.extL (regAt w 0)) else (eaIn .movemRM w).map .movemLR2M
    | 5 =>
      if w = 0x4AFC then some .illegal
      else
        match sizeAt w with
        | some sz => (eaIn .dalt w).map (.tst sz)
        | none => (eaIn .dalt w).map .tas
    | 6 =>
      match twoBits w 6 with
      | 2 => (eaIn .movemMR w).map .movemWM2R
      | 3 => (eaIn .movemMR w).map .movemLM2R
      | _ => none
    | _ =>
      match twoBits w 6 with
      | 1 => decodeMisc w
      | 2 => (eaIn .ctrl w).map .jsr
      | 3 => (eaIn .ctrl w).map .jmp
      | _ => none

/-- Line 5: ADDQ, SUBQ, Scc, DBcc (R169). -/
def decodeLine5 (w : Word) : Option Instr :=
  match sizeAt w with
  | none =>
    if threeBits w 3 = 1 then some (.dbcc (condAt w) (regAt w 0))
    else (eaIn .dalt w).map (.scc (condAt w))
  | some .b =>
    if w.getLsbD 8 then (eaIn .dalt w).map (.subqB (regAt w 9))
    else (eaIn .dalt w).map (.addqB (regAt w 9))
  | some sz =>
    if w.getLsbD 8 then (eaIn .alt w).map (.subqWL (regAt w 9) sz)
    else (eaIn .alt w).map (.addqWL (regAt w 9) sz)

/-- Line 6: Bcc, BRA, BSR (R169). -/
def decodeLine6 (w : Word) : Option Instr :=
  match condAt w with
  | .t => some (.bra (w.extractLsb' 0 8))
  | .f => some (.bsr (w.extractLsb' 0 8))
  | cond => some (.bcc cond (w.extractLsb' 0 8))

/-- Line 7: MOVEQ (R169). -/
def decodeLine7 (w : Word) : Option Instr :=
  if w.getLsbD 8 then none else some (.moveq (regAt w 9) (w.extractLsb' 0 8))

/-- Line 8: OR, DIVU, DIVS, SBCD (R170). -/
def decodeLine8 (w : Word) : Option Instr :=
  match threeBits w 6 with
  | 3 => (eaIn .data w).map (.divu (regAt w 9))
  | 7 => (eaIn .data w).map (.divs (regAt w 9))
  | _ =>
    (sizeAt w).bind fun sz =>
      if w.getLsbD 8 then
        if threeBits w 6 = 4 && threeBits w 3 = 0 then some (.sbcdR (regAt w 9) (regAt w 0))
        else if threeBits w 6 = 4 && threeBits w 3 = 1 then some (.sbcdM (regAt w 9) (regAt w 0))
        else (eaIn .malt w).map (.orDEa (regAt w 9) sz)
      else (eaIn .data w).map (.orEaD (regAt w 9) sz)

/-- Line 9: SUB, SUBA, SUBX (R170). -/
def decodeLine9 (w : Word) : Option Instr :=
  match threeBits w 6 with
  | 3 => (eaIn .all w).map (.subaW (regAt w 9))
  | 7 => (eaIn .all w).map (.subaL (regAt w 9))
  | 0 => (eaIn .data w).map (.subEaDB (regAt w 9))
  | _ =>
    (sizeAt w).bind fun sz =>
      if w.getLsbD 8 then
        match threeBits w 3 with
        | 0 => some (.subxR (regAt w 9) sz (regAt w 0))
        | 1 => some (.subxM (regAt w 9) sz (regAt w 0))
        | _ => (eaIn .malt w).map (.subDEa (regAt w 9) sz)
      else (eaIn .all w).map (.subEaDWL (regAt w 9) sz)

/-- Line B: CMP, CMPA, CMPM, EOR (R170). -/
def decodeLineB (w : Word) : Option Instr :=
  match threeBits w 6 with
  | 3 => (eaIn .all w).map (.cmpaW (regAt w 9))
  | 7 => (eaIn .all w).map (.cmpaL (regAt w 9))
  | 0 => (eaIn .data w).map (.cmpB (regAt w 9))
  | _ =>
    (sizeAt w).bind fun sz =>
      if w.getLsbD 8 then
        if threeBits w 3 = 1 then some (.cmpm (regAt w 9) sz (regAt w 0))
        else (eaIn .dalt w).map (.eor (regAt w 9) sz)
      else (eaIn .all w).map (.cmpWL (regAt w 9) sz)

/-- Line C: AND, MULU, MULS, ABCD, EXG (R170). -/
def decodeLineC (w : Word) : Option Instr :=
  match threeBits w 6 with
  | 3 => (eaIn .data w).map (.mulu (regAt w 9))
  | 7 => (eaIn .data w).map (.muls (regAt w 9))
  | _ =>
    (sizeAt w).bind fun sz =>
      if w.getLsbD 8 then
        match (w.extractLsb' 3 6).toNat with
        | 0x20 => some (.abcdR (regAt w 9) (regAt w 0))
        | 0x21 => some (.abcdM (regAt w 9) (regAt w 0))
        | 0x28 => some (.exgDD (regAt w 9) (regAt w 0))
        | 0x29 => some (.exgAA (regAt w 9) (regAt w 0))
        | 0x31 => some (.exgDA (regAt w 9) (regAt w 0))
        | _ => (eaIn .malt w).map (.andDEa (regAt w 9) sz)
      else (eaIn .data w).map (.andEaD (regAt w 9) sz)

/-- Line D: ADD, ADDA, ADDX (R170). -/
def decodeLineD (w : Word) : Option Instr :=
  match threeBits w 6 with
  | 3 => (eaIn .all w).map (.addaW (regAt w 9))
  | 7 => (eaIn .all w).map (.addaL (regAt w 9))
  | 0 => (eaIn .data w).map (.addEaDB (regAt w 9))
  | _ =>
    (sizeAt w).bind fun sz =>
      if w.getLsbD 8 then
        match threeBits w 3 with
        | 0 => some (.addxR (regAt w 9) sz (regAt w 0))
        | 1 => some (.addxM (regAt w 9) sz (regAt w 0))
        | _ => (eaIn .malt w).map (.addDEa (regAt w 9) sz)
      else (eaIn .all w).map (.addEaDWL (regAt w 9) sz)

/-- Line E, register forms: type in bits 4:3, direction in bit 8 (R170). -/
def decodeShiftReg (w : Word) (sz : Size) : Instr :=
  match twoBits w 3, w.getLsbD 8 with
  | 0, false => .asrR (countAt w) sz (regAt w 0)
  | 0, true => .aslR (countAt w) sz (regAt w 0)
  | 1, false => .lsrR (countAt w) sz (regAt w 0)
  | 1, true => .lslR (countAt w) sz (regAt w 0)
  | 2, false => .roxrR (countAt w) sz (regAt w 0)
  | 2, true => .roxlR (countAt w) sz (regAt w 0)
  | _, false => .rorR (countAt w) sz (regAt w 0)
  | _, true => .rolR (countAt w) sz (regAt w 0)

/-- Line E, memory forms: type in bits 10:9, direction in bit 8 (R170). -/
def decodeShiftMem (w : Word) (ea : EA) : Instr :=
  match twoBits w 9, w.getLsbD 8 with
  | 0, false => .asrM ea
  | 0, true => .aslM ea
  | 1, false => .lsrM ea
  | 1, true => .lslM ea
  | 2, false => .roxrM ea
  | 2, true => .roxlM ea
  | _, false => .rorM ea
  | _, true => .rolM ea

/-- Line E: shifts and rotates (R170). -/
def decodeLineE (w : Word) : Option Instr :=
  match sizeAt w with
  | some sz => some (decodeShiftReg w sz)
  | none => if w.getLsbD 11 then none else (eaIn .malt w).map (decodeShiftMem w)

/-- The row of an opcode word, by its line (R151). -/
def decodeRow (w : Word) : Option Instr :=
  match (w.extractLsb' 12 4).toNat with
  | 0 => decodeLine0 w
  | 1 => decodeLine1 w
  | 2 => decodeLine2 w
  | 3 => decodeLine3 w
  | 4 => decodeLine4 w
  | 5 => decodeLine5 w
  | 6 => decodeLine6 w
  | 7 => decodeLine7 w
  | 8 => decodeLine8 w
  | 9 => decodeLine9 w
  | 10 => some (.lineA (w.extractLsb' 0 12))
  | 11 => decodeLineB w
  | 12 => decodeLineC w
  | 13 => decodeLineD w
  | 14 => decodeLineE w
  | _ => some (.lineF (w.extractLsb' 0 12))

/-- The instruction of an opcode word, or the name of the rejection (R171). -/
def decode (w : Word) : Except DecodeError Instr :=
  match decodeRow w with
  | some i => .ok i
  | none => .error .unassigned

/-- The instruction at the front of a string of bytes, big-endian (R106), and the bytes after
its opcode word: the extension words, which the meaning fetches. -/
def decodeBytes : List Byte → Except DecodeError (Instr × List Byte)
  | hi :: lo :: rest => (decode (hi ++ lo)).map fun i => (i, rest)
  | _ => .error .truncated

/-- The word number `k` of an instruction whose bits are `w`, numbered as the opcode table
numbers them: the first word is bits 15:0, the next bits 31:16. -/
def tableWord (nbits w k : Nat) : Word := BitVec.ofNat 16 ((w % 2 ^ nbits) >>> (16 * k))

/-- The bytes of that instruction as memory holds them: five words (the longest instruction,
R150), each in big-endian order. -/
def tableBytes (nbits w : Nat) : List Byte :=
  [0, 1, 2, 3, 4].flatMap fun k =>
    [(tableWord nbits w k).extractLsb' 8 8, (tableWord nbits w k).extractLsb' 0 8]

/-- The instruction the decoder reads from an instruction whose bits are `w`, numbered as
spec/opcode_table.json numbers them. -/
def decodeTableWord (nbits w : Nat) : Option Instr :=
  match decodeBytes (tableBytes nbits w) with
  | .ok (i, _) => some i
  | .error _ => none

/-! ### Pieces of the encoder -/

/-- A register number as a 3-bit field. -/
def regBits (n : Reg) : BitVec 3 := BitVec.ofFin n

/-- A 3-bit field placed at bits `lo+2 : lo`. -/
def at3 (v : BitVec 3) (lo : Nat) : Word := v.setWidth 16 <<< lo

/-- The 4-bit code of a condition (R50). -/
def Cond.code : Cond → BitVec 4
  | .t => 0 | .f => 1 | .hi => 2 | .ls => 3 | .cc => 4 | .cs => 5 | .ne => 6 | .eq => 7
  | .vc => 8 | .vs => 9 | .pl => 10 | .mi => 11 | .ge => 12 | .lt => 13 | .gt => 14 | .le => 15

/-! ### The encoder: the opcode word of an instruction, from the "encoding" column of
spec/opcode_table.json. -/

/-- Mode and register of an EA field, in the order mode then register (R152). -/
def EA.fields : EA → BitVec 3 × BitVec 3
  | .dreg n => (0, regBits n)
  | .areg n => (1, regBits n)
  | .ind n => (2, regBits n)
  | .postInc n => (3, regBits n)
  | .preDec n => (4, regBits n)
  | .disp n => (5, regBits n)
  | .index n => (6, regBits n)
  | .absW => (7, 0)
  | .absL => (7, 1)
  | .pcDisp => (7, 2)
  | .pcIndex => (7, 3)
  | .imm => (7, 4)

/-- An EA field at bits 5:0: mode 5:3, register 2:0. -/
def EA.srcField (ea : EA) : Word := at3 ea.fields.1 3 ||| at3 ea.fields.2 0

/-- The MOVE destination field at bits 11:6: register 11:9, mode 8:6 (R152, R167). -/
def EA.dstField (ea : EA) : Word := at3 ea.fields.2 9 ||| at3 ea.fields.1 6

/-- The standard size field at bits 7:6 (R156). -/
def Size.field : Size → Word
  | .b => 0x0000
  | .w => 0x0040
  | .l => 0x0080

/-- Bits 11:9 and bit 5 of a register shift (R350). -/
def Count.field : Count → Word
  | .imm c => at3 (regBits c) 9
  | .reg c => at3 (regBits c) 9 ||| 0x0020

/-- The opcode word of an instruction. -/
def encode : Instr → Word
  | .oriCcr => 0x003C
  | .oriSr => 0x007C
  | .andiCcr => 0x023C
  | .andiSr => 0x027C
  | .eoriCcr => 0x0A3C
  | .eoriSr => 0x0A7C
  | .ori sz ea => 0x0000 ||| sz.field ||| ea.srcField
  | .andi sz ea => 0x0200 ||| sz.field ||| ea.srcField
  | .subi sz ea => 0x0400 ||| sz.field ||| ea.srcField
  | .addi sz ea => 0x0600 ||| sz.field ||| ea.srcField
  | .eori sz ea => 0x0A00 ||| sz.field ||| ea.srcField
  | .cmpi sz ea => 0x0C00 ||| sz.field ||| ea.srcField
  | .btstS ea => 0x0800 ||| ea.srcField
  | .bchgS ea => 0x0840 ||| ea.srcField
  | .bclrS ea => 0x0880 ||| ea.srcField
  | .bsetS ea => 0x08C0 ||| ea.srcField
  | .btstD x ea => 0x0100 ||| at3 (regBits x) 9 ||| ea.srcField
  | .bchgD x ea => 0x0140 ||| at3 (regBits x) 9 ||| ea.srcField
  | .bclrD x ea => 0x0180 ||| at3 (regBits x) 9 ||| ea.srcField
  | .bsetD x ea => 0x01C0 ||| at3 (regBits x) 9 ||| ea.srcField
  | .movepWM2R x y => 0x0108 ||| at3 (regBits x) 9 ||| at3 (regBits y) 0
  | .movepLM2R x y => 0x0148 ||| at3 (regBits x) 9 ||| at3 (regBits y) 0
  | .movepWR2M x y => 0x0188 ||| at3 (regBits x) 9 ||| at3 (regBits y) 0
  | .movepLR2M x y => 0x01C8 ||| at3 (regBits x) 9 ||| at3 (regBits y) 0
  | .moveB src dst => 0x1000 ||| dst.dstField ||| src.srcField
  | .moveW src dst => 0x3000 ||| dst.dstField ||| src.srcField
  | .moveL src dst => 0x2000 ||| dst.dstField ||| src.srcField
  | .moveaW src x => 0x3040 ||| at3 (regBits x) 9 ||| src.srcField
  | .moveaL src x => 0x2040 ||| at3 (regBits x) 9 ||| src.srcField
  | .moveFromSr ea => 0x40C0 ||| ea.srcField
  | .moveToCcr ea => 0x44C0 ||| ea.srcField
  | .moveToSr ea => 0x46C0 ||| ea.srcField
  | .negx sz ea => 0x4000 ||| sz.field ||| ea.srcField
  | .clr sz ea => 0x4200 ||| sz.field ||| ea.srcField
  | .neg sz ea => 0x4400 ||| sz.field ||| ea.srcField
  | .notEa sz ea => 0x4600 ||| sz.field ||| ea.srcField
  | .tst sz ea => 0x4A00 ||| sz.field ||| ea.srcField
  | .nbcd ea => 0x4800 ||| ea.srcField
  | .swap y => 0x4840 ||| at3 (regBits y) 0
  | .pea ea => 0x4840 ||| ea.srcField
  | .extW y => 0x4880 ||| at3 (regBits y) 0
  | .extL y => 0x48C0 ||| at3 (regBits y) 0
  | .movemWR2M ea => 0x4880 ||| ea.srcField
  | .movemLR2M ea => 0x48C0 ||| ea.srcField
  | .tas ea => 0x4AC0 ||| ea.srcField
  | .illegal => 0x4AFC
  | .movemWM2R ea => 0x4C80 ||| ea.srcField
  | .movemLM2R ea => 0x4CC0 ||| ea.srcField
  | .chk x ea => 0x4180 ||| at3 (regBits x) 9 ||| ea.srcField
  | .lea x ea => 0x41C0 ||| at3 (regBits x) 9 ||| ea.srcField
  | .trap v => 0x4E40 ||| BitVec.ofNat 16 v.val
  | .link y => 0x4E50 ||| at3 (regBits y) 0
  | .unlk y => 0x4E58 ||| at3 (regBits y) 0
  | .moveToUsp y => 0x4E60 ||| at3 (regBits y) 0
  | .moveFromUsp y => 0x4E68 ||| at3 (regBits y) 0
  | .reset => 0x4E70
  | .nop => 0x4E71
  | .stop => 0x4E72
  | .rte => 0x4E73
  | .rts => 0x4E75
  | .trapv => 0x4E76
  | .rtr => 0x4E77
  | .jsr ea => 0x4E80 ||| ea.srcField
  | .jmp ea => 0x4EC0 ||| ea.srcField
  | .addqB q ea => 0x5000 ||| at3 (regBits q) 9 ||| ea.srcField
  | .addqWL q sz ea => 0x5000 ||| at3 (regBits q) 9 ||| sz.field ||| ea.srcField
  | .subqB q ea => 0x5100 ||| at3 (regBits q) 9 ||| ea.srcField
  | .subqWL q sz ea => 0x5100 ||| at3 (regBits q) 9 ||| sz.field ||| ea.srcField
  | .dbcc cond y => 0x50C8 ||| (cond.code.setWidth 16 <<< 8) ||| at3 (regBits y) 0
  | .scc cond ea => 0x50C0 ||| (cond.code.setWidth 16 <<< 8) ||| ea.srcField
  | .bra d8 => 0x6000 ||| d8.setWidth 16
  | .bsr d8 => 0x6100 ||| d8.setWidth 16
  | .bcc cond d8 => 0x6000 ||| (cond.code.setWidth 16 <<< 8) ||| d8.setWidth 16
  | .moveq x d8 => 0x7000 ||| at3 (regBits x) 9 ||| d8.setWidth 16
  | .subEaDB x ea => 0x9000 ||| at3 (regBits x) 9 ||| ea.srcField
  | .subEaDWL x sz ea => 0x9000 ||| at3 (regBits x) 9 ||| sz.field ||| ea.srcField
  | .subDEa x sz ea => 0x9100 ||| at3 (regBits x) 9 ||| sz.field ||| ea.srcField
  | .subaW x ea => 0x90C0 ||| at3 (regBits x) 9 ||| ea.srcField
  | .subaL x ea => 0x91C0 ||| at3 (regBits x) 9 ||| ea.srcField
  | .subxR x sz y => 0x9100 ||| at3 (regBits x) 9 ||| sz.field ||| at3 (regBits y) 0
  | .subxM x sz y => 0x9108 ||| at3 (regBits x) 9 ||| sz.field ||| at3 (regBits y) 0
  | .addEaDB x ea => 0xD000 ||| at3 (regBits x) 9 ||| ea.srcField
  | .addEaDWL x sz ea => 0xD000 ||| at3 (regBits x) 9 ||| sz.field ||| ea.srcField
  | .addDEa x sz ea => 0xD100 ||| at3 (regBits x) 9 ||| sz.field ||| ea.srcField
  | .addaW x ea => 0xD0C0 ||| at3 (regBits x) 9 ||| ea.srcField
  | .addaL x ea => 0xD1C0 ||| at3 (regBits x) 9 ||| ea.srcField
  | .addxR x sz y => 0xD100 ||| at3 (regBits x) 9 ||| sz.field ||| at3 (regBits y) 0
  | .addxM x sz y => 0xD108 ||| at3 (regBits x) 9 ||| sz.field ||| at3 (regBits y) 0
  | .orEaD x sz ea => 0x8000 ||| at3 (regBits x) 9 ||| sz.field ||| ea.srcField
  | .orDEa x sz ea => 0x8100 ||| at3 (regBits x) 9 ||| sz.field ||| ea.srcField
  | .divu x ea => 0x80C0 ||| at3 (regBits x) 9 ||| ea.srcField
  | .divs x ea => 0x81C0 ||| at3 (regBits x) 9 ||| ea.srcField
  | .sbcdR x y => 0x8100 ||| at3 (regBits x) 9 ||| at3 (regBits y) 0
  | .sbcdM x y => 0x8108 ||| at3 (regBits x) 9 ||| at3 (regBits y) 0
  | .cmpB x ea => 0xB000 ||| at3 (regBits x) 9 ||| ea.srcField
  | .cmpWL x sz ea => 0xB000 ||| at3 (regBits x) 9 ||| sz.field ||| ea.srcField
  | .cmpaW x ea => 0xB0C0 ||| at3 (regBits x) 9 ||| ea.srcField
  | .cmpaL x ea => 0xB1C0 ||| at3 (regBits x) 9 ||| ea.srcField
  | .eor x sz ea => 0xB100 ||| at3 (regBits x) 9 ||| sz.field ||| ea.srcField
  | .cmpm x sz y => 0xB108 ||| at3 (regBits x) 9 ||| sz.field ||| at3 (regBits y) 0
  | .andEaD x sz ea => 0xC000 ||| at3 (regBits x) 9 ||| sz.field ||| ea.srcField
  | .andDEa x sz ea => 0xC100 ||| at3 (regBits x) 9 ||| sz.field ||| ea.srcField
  | .mulu x ea => 0xC0C0 ||| at3 (regBits x) 9 ||| ea.srcField
  | .muls x ea => 0xC1C0 ||| at3 (regBits x) 9 ||| ea.srcField
  | .abcdR x y => 0xC100 ||| at3 (regBits x) 9 ||| at3 (regBits y) 0
  | .abcdM x y => 0xC108 ||| at3 (regBits x) 9 ||| at3 (regBits y) 0
  | .exgDD x y => 0xC140 ||| at3 (regBits x) 9 ||| at3 (regBits y) 0
  | .exgAA x y => 0xC148 ||| at3 (regBits x) 9 ||| at3 (regBits y) 0
  | .exgDA x y => 0xC188 ||| at3 (regBits x) 9 ||| at3 (regBits y) 0
  | .asrR n sz y => 0xE000 ||| n.field ||| sz.field ||| at3 (regBits y) 0
  | .asrM ea => 0xE0C0 ||| ea.srcField
  | .aslR n sz y => 0xE100 ||| n.field ||| sz.field ||| at3 (regBits y) 0
  | .aslM ea => 0xE1C0 ||| ea.srcField
  | .lsrR n sz y => 0xE008 ||| n.field ||| sz.field ||| at3 (regBits y) 0
  | .lsrM ea => 0xE2C0 ||| ea.srcField
  | .lslR n sz y => 0xE108 ||| n.field ||| sz.field ||| at3 (regBits y) 0
  | .lslM ea => 0xE3C0 ||| ea.srcField
  | .roxrR n sz y => 0xE010 ||| n.field ||| sz.field ||| at3 (regBits y) 0
  | .roxrM ea => 0xE4C0 ||| ea.srcField
  | .roxlR n sz y => 0xE110 ||| n.field ||| sz.field ||| at3 (regBits y) 0
  | .roxlM ea => 0xE5C0 ||| ea.srcField
  | .rorR n sz y => 0xE018 ||| n.field ||| sz.field ||| at3 (regBits y) 0
  | .rorM ea => 0xE6C0 ||| ea.srcField
  | .rolR n sz y => 0xE118 ||| n.field ||| sz.field ||| at3 (regBits y) 0
  | .rolM ea => 0xE7C0 ||| ea.srcField
  | .lineA w => 0xA000 ||| w.setWidth 16
  | .lineF w => 0xF000 ||| w.setWidth 16

end Sys2Proof
end

