-- ==== Sys2Proof/Machine/Bits.lean ====
section
/-!
DEFINITION. Widths, truncation, sign extension and partial register writes (00_scope.md
section 5, R41, R106). Every operand value is held as a long whose bits above its size are 0.
-/

namespace Sys2Proof.Machine

/-- `N(sz)`: the width in bits. -/
def bitsOf : Size → Nat
  | .b => 8
  | .w => 16
  | .l => 32

/-- `bytes(sz)`. -/
def bytesOf : Size → Nat
  | .b => 1
  | .w => 2
  | .l => 4

/-- `trunc(v, sz)`. -/
def trunc : Size → Long → Long
  | .b, v => (v.setWidth 8).setWidth 32
  | .w, v => (v.setWidth 16).setWidth 32
  | .l, v => v

/-- `msb(v, sz)`. -/
def msbOf : Size → Long → Bool
  | .b, v => v.getLsbD 7
  | .w, v => v.getLsbD 15
  | .l, v => v.getLsbD 31

/-- `sext_32(v)` of a value of size `sz`. -/
def sext : Size → Long → Long
  | .b, v => (v.setWidth 8).signExtend 32
  | .w, v => (v.setWidth 16).signExtend 32
  | .l, v => v

/-- `signed(v, sz)`. -/
def signedOf (sz : Size) (v : Long) : Int := (sext sz v).toInt

/-- `old <-sz v`: only the low `N(sz)` bits change (R41). -/
def mergeLow : Size → Long → Long → Long
  | .b, old, v => old.extractLsb' 8 24 ++ v.setWidth 8
  | .w, old, v => old.extractLsb' 16 16 ++ v.setWidth 16
  | .l, _, v => v

/-- `addr[23:0]`, the address on the bus (R101). -/
def busAddr (addr : Long) : Addr := addr.setWidth 24

/-- The region number of a bus address, `a24[23:16]` (R101). -/
def regionOf (a : Addr) : Fin 256 := (a.extractLsb' 16 8).toFin

end Sys2Proof.Machine
end

