-- ==== Sys2Proof/Config.lean ====
section
/-!
DEFINITION. What an implementation fixes and what the spec leaves open: the configuration
parameters of R8 that are plain data (a field `cfg` of State holds them, log 5), the OPEN
parameters that are functions, and the free values (draws). An `opaque` here has no body, so
nothing can be proved of its value.
-/

namespace Sys2Proof

/-- SHIFT_COUNT0_POLICY (R8, R367): the flags after a register shift by a count of 0. -/
inductive ShiftZeroPolicy where
  | unchanged   -- no flag changes (the default)
  | prm         -- the MC68000's documented truth table
  deriving DecidableEq, Repr

/-- PREFETCH_EMULATION (R8): false is the only value the spec defines, so the type has that one. -/
inductive PrefetchEmulation where
  | off
  deriving DecidableEq, Repr

/-! ### CYCLES (R8, R630): one field for each entry of the tables R631-R646 -/

/-- The two columns of a table: byte and word, and long. -/
structure SizedCost where
  bw : Nat
  l : Nat
  deriving DecidableEq, Repr

/-- The operand columns of an instruction of one size: Dn, and memory before the EA time. -/
structure ByteCost where
  dn : Nat
  mem : Nat
  deriving DecidableEq, Repr

/-- The operand columns of a sized instruction: Dn, and memory before the EA time. -/
structure OperandCost where
  dn : SizedCost
  mem : SizedCost
  deriving DecidableEq, Repr

/-- EA calculation time (R631). -/
structure EaCosts where
  reg : SizedCost := ⟨0, 0⟩
  ind : SizedCost := ⟨4, 8⟩
  postInc : SizedCost := ⟨4, 8⟩
  preDec : SizedCost := ⟨6, 10⟩
  disp : SizedCost := ⟨8, 12⟩
  index : SizedCost := ⟨10, 14⟩
  absW : SizedCost := ⟨8, 12⟩
  absL : SizedCost := ⟨12, 16⟩
  pcDisp : SizedCost := ⟨8, 12⟩
  pcIndex : SizedCost := ⟨10, 14⟩
  imm : SizedCost := ⟨4, 8⟩
  deriving DecidableEq, Repr

/-- MOVE and MOVEA (R632): the base, and the rows of the destination. -/
structure MoveCosts where
  base : Nat := 4
  reg : SizedCost := ⟨0, 0⟩
  ind : SizedCost := ⟨4, 8⟩
  disp : SizedCost := ⟨8, 12⟩
  index : SizedCost := ⟨10, 14⟩
  absL : SizedCost := ⟨12, 16⟩
  deriving DecidableEq, Repr

/-- Standard instructions (R633); the `Direct` fields are the long forms whose operand is a register
or an immediate. -/
structure StandardCosts where
  addAn : SizedCost := ⟨8, 6⟩
  addAnDirect : Nat := 8
  addDn : SizedCost := ⟨4, 6⟩
  addDnDirect : Nat := 8
  addMem : SizedCost := ⟨8, 12⟩
  logicDn : SizedCost := ⟨4, 6⟩
  logicDnDirect : Nat := 8
  logicMem : SizedCost := ⟨8, 12⟩
  cmpAn : SizedCost := ⟨6, 6⟩
  cmpDn : SizedCost := ⟨4, 6⟩
  eor : OperandCost := ⟨⟨4, 8⟩, ⟨8, 12⟩⟩
  deriving DecidableEq, Repr

/-- Immediate and quick instructions (R634). -/
structure ImmediateCosts where
  addi : OperandCost := ⟨⟨8, 16⟩, ⟨12, 20⟩⟩
  addq : OperandCost := ⟨⟨4, 8⟩, ⟨8, 12⟩⟩
  addqAn : SizedCost := ⟨8, 8⟩
  andi : OperandCost := ⟨⟨8, 14⟩, ⟨12, 20⟩⟩
  ori : OperandCost := ⟨⟨8, 16⟩, ⟨12, 20⟩⟩
  cmpi : OperandCost := ⟨⟨8, 14⟩, ⟨8, 12⟩⟩
  moveq : Nat := 4
  deriving DecidableEq, Repr

/-- Single-operand instructions (R635). -/
structure SingleCosts where
  unary : OperandCost := ⟨⟨4, 6⟩, ⟨8, 12⟩⟩
  tst : OperandCost := ⟨⟨4, 4⟩, ⟨4, 4⟩⟩
  nbcd : ByteCost := ⟨6, 8⟩
  sccFalse : ByteCost := ⟨4, 8⟩
  sccTrue : ByteCost := ⟨6, 8⟩
  tas : ByteCost := ⟨4, 10⟩
  deriving DecidableEq, Repr

/-- Shifts and rotates (R636). -/
structure ShiftCosts where
  reg : SizedCost := ⟨6, 8⟩
  perBit : Nat := 2
  mem : Nat := 8
  deriving DecidableEq, Repr

/-- Bit manipulation (R637). -/
structure BitCosts where
  btstD : ByteCost := ⟨6, 4⟩
  btstS : ByteCost := ⟨10, 8⟩
  bchgD : ByteCost := ⟨8, 8⟩
  bchgS : ByteCost := ⟨12, 12⟩
  bclrD : ByteCost := ⟨10, 8⟩
  bclrS : ByteCost := ⟨14, 12⟩
  bsetD : ByteCost := ⟨8, 8⟩
  bsetS : ByteCost := ⟨12, 12⟩
  deriving DecidableEq, Repr

/-- The two displacement columns of R638: 8-bit and 16-bit. -/
structure BranchCost where
  short : Nat
  long : Nat
  deriving DecidableEq, Repr

/-- Branches (R638). -/
structure BranchCosts where
  taken : BranchCost := ⟨10, 10⟩
  notTaken : BranchCost := ⟨8, 12⟩
  bra : BranchCost := ⟨10, 10⟩
  bsr : BranchCost := ⟨18, 18⟩
  dbccTrue : Nat := 12
  dbccTaken : Nat := 10
  dbccExpired : Nat := 14
  deriving DecidableEq, Repr

/-- A row of R639, over the control addressing modes. -/
structure ControlCosts where
  ind : Nat
  disp : Nat
  index : Nat
  absW : Nat
  absL : Nat
  pcDisp : Nat
  pcIndex : Nat
  deriving DecidableEq, Repr

/-- JMP, JSR, LEA and PEA (R639). -/
structure AddressCosts where
  jmp : ControlCosts := ⟨8, 10, 14, 10, 12, 10, 14⟩
  jsr : ControlCosts := ⟨16, 18, 22, 18, 20, 18, 22⟩
  lea : ControlCosts := ⟨4, 8, 12, 8, 12, 8, 12⟩
  pea : ControlCosts := ⟨12, 16, 20, 16, 20, 16, 20⟩
  deriving DecidableEq, Repr

/-- A row of R640: the control modes, the `(An)+` or `-(An)` column, and the cost of a register.
R640 has no PC-relative column for the rows to memory. -/
structure MovemCost where
  control : ControlCosts
  stepped : Nat
  perReg : Nat
  deriving DecidableEq, Repr

/-- MOVEM (R640). -/
structure MovemCosts where
  toRegsW : MovemCost := ⟨⟨12, 16, 18, 16, 20, 16, 18⟩, 12, 4⟩
  toRegsL : MovemCost := ⟨⟨12, 16, 18, 16, 20, 16, 18⟩, 12, 8⟩
  toMemW : MovemCost := ⟨⟨8, 12, 14, 12, 16, 0, 0⟩, 8, 4⟩
  toMemL : MovemCost := ⟨⟨8, 12, 14, 12, 16, 0, 0⟩, 8, 8⟩
  deriving DecidableEq, Repr

/-- Multiprecision and BCD (R641). -/
structure ExtendedCosts where
  addxReg : SizedCost := ⟨4, 8⟩
  addxMem : SizedCost := ⟨18, 30⟩
  bcdReg : Nat := 6
  bcdMem : Nat := 18
  cmpm : SizedCost := ⟨12, 20⟩
  deriving DecidableEq, Repr

/-- Miscellaneous instructions (R642); those with an operand before the EA time. -/
structure MiscCosts where
  toCcr : Nat := 20
  toSr : Nat := 20
  chk : Nat := 10
  exg : Nat := 6
  ext : Nat := 4
  link : Nat := 16
  moveFromSr : ByteCost := ⟨6, 8⟩
  moveToCcr : Nat := 12
  moveToSr : Nat := 12
  moveUsp : Nat := 4
  movepW : Nat := 16
  movepL : Nat := 24
  nop : Nat := 4
  reset : Nat := 132
  rte : Nat := 20
  rtr : Nat := 20
  rts : Nat := 16
  stop : Nat := 4
  swap : Nat := 4
  trapv : Nat := 4
  unlk : Nat := 12
  deriving DecidableEq, Repr

/-- Exceptions (R643); `chk` and `zeroDivide` before the EA time. The cost of pulse_reset is
RESET_CYCLES. -/
structure ExceptionCosts where
  addressError : Nat := 50
  illegal : Nat := 34
  privilege : Nat := 34
  trap : Nat := 34
  trapv : Nat := 34
  chk : Nat := 40
  zeroDivide : Nat := 38
  trace : Nat := 34
  interrupt : Nat := 44
  deriving DecidableEq, Repr

/-- MULU and MULS (R645, R646): the base, and the cost of each bit or pair of bits that counts. -/
structure MultiplyCosts where
  mulu : Nat := 38
  muluPerOne : Nat := 2
  muls : Nat := 38
  mulsPerPair : Nat := 2
  deriving DecidableEq, Repr

/-- CYCLES (R8, R630), its default the tables of R631-R646. -/
structure CycleTable where
  ea : EaCosts := {}
  move : MoveCosts := {}
  standard : StandardCosts := {}
  immediate : ImmediateCosts := {}
  single : SingleCosts := {}
  shift : ShiftCosts := {}
  bit : BitCosts := {}
  branch : BranchCosts := {}
  address : AddressCosts := {}
  movem : MovemCosts := {}
  extended : ExtendedCosts := {}
  misc : MiscCosts := {}
  exception : ExceptionCosts := {}
  multiply : MultiplyCosts := {}
  deriving DecidableEq, Repr

/-- A cost, as a function of the table: nothing but the charge at a step's end reads one (R630). -/
abbrev Cost := CycleTable → Nat

/-- The configuration parameters of R8 that are plain data, each with its stated default. -/
structure Config where
  /-- EMULATE_TRACE: the T bit causes trace exceptions (R530). -/
  emulateTrace : Bool := true
  /-- FC_EMULATION: FC is driven before each access and fc_change is called (R120). -/
  fcEmulation : Bool := true
  /-- PREFETCH_EMULATION: no prefetch queue is modelled (R129, R130). -/
  prefetchEmulation : PrefetchEmulation := .off
  /-- DUMMY_READS: CLR, Scc, MOVE from SR and MOVEM make the extra reads of R125. -/
  dummyReads : Bool := false
  /-- SHIFT_COUNT0_POLICY (R367). -/
  shiftZero : ShiftZeroPolicy := .unchanged
  /-- CYCLES (R630). -/
  cycles : CycleTable := {}
  /-- RESET_CYCLES (R651). -/
  resetCycles : Nat := 40
  /-- IDLE_DETECT (R580). -/
  idleDetect : Bool := true
  deriving DecidableEq, Repr

/-- The three decimal operations, the first argument of BCD_NV and BCD_INVALID (R406, R407). -/
inductive BcdOp where
  | abcd | sbcd | nbcd
  deriving DecidableEq, Repr

namespace Config

/-- The n-th free bit: a draw of R277-R279 or R213 (log 2). -/
opaque freeBit : Nat → Bool

/-- The n-th free long: the stacked PC of an address error and bits 15:5 of its status word
(R523, R524), or the answer of a host callback that nothing in `State.script` fixes (log 1, 2). -/
opaque freeLong : Nat → Long

/-- BCD_NV (R406), OPEN: N and V after a decimal operation on (op, source, destination, X) (log 3). -/
opaque bcdNV : BcdOp → Byte → Byte → Bool → Bool × Bool

/-- BCD_INVALID (R407), OPEN: result and carry when a digit is above 9 (log 3). -/
opaque bcdInvalid : BcdOp → Byte → Byte → Bool → Byte × Bool

/-- DIV_CYCLES (R647), OPEN: the cost of DIVU (false) or DIVS (true) on a dividend and a
nonzero divisor, before the EA time (log 4). -/
opaque divCycles : Bool → Long → Word → Nat

end Config

end Sys2Proof
end

