-- ==== Sys2Proof/Machine/Memory.lean ====
section
/-!
DEFINITION. The storage of the pointer-backed regions (R100, R102): a list of (address, byte)
pairs in one canonical form, keyed by the 24-bit bus address (R101).
-/

namespace Sys2Proof.Machine

/-- The bytes that differ from `Memory.unlisted`, by rising address. -/
abbrev Memory := List Host.Cell

/-- What an unlisted address reads as. DESIGN CHOICE (log 8), unsafe: the spec makes the contents
the host's and states none. -/
def Memory.unlisted : Byte := 0

/-- The byte at an address. -/
def Memory.read : Memory → Nat → Byte
  | [], _ => Memory.unlisted
  | (k, v) :: m, a => if k = a then v else Memory.read m a

/-- Put a byte in front of a list whose addresses are all higher, keeping the canonical form. -/
def Memory.cons (a : Nat) (v : Byte) (m : Memory) : Memory :=
  if v = Memory.unlisted then m else (a, v) :: m

/-- Store a byte. Writing the byte an unlisted address reads as removes the entry. -/
def Memory.write : Memory → Nat → Byte → Memory
  | [], a, v => Memory.cons a v []
  | (k, u) :: m, a, v =>
    if a < k then Memory.cons a v ((k, u) :: m)
    else if a = k then Memory.cons a v m
    else (k, u) :: Memory.write m a v

/-- The canonical form: addresses inside the 24-bit space and strictly rising, no entry equal to
what an unlisted address reads as. -/
def Memory.wf : Memory → Bool
  | [] => true
  | (k, v) :: m => k < 2 ^ 24 && v != Memory.unlisted && m.all (fun c => k < c.1) && Memory.wf m

end Sys2Proof.Machine
end

