-- ==== Sys2Proof/Machine/State.lean ====
section
/-!
DEFINITION. The state of the core (10_state.md, 20_memory.md section 1), the reasons a step can
stop, and the state after reset. Plain data only.
-/

namespace Sys2Proof.Machine

/-! ### Model faults -/

/-- The direction of an access (R105). -/
inductive Direction where
  | read | write
  deriving DecidableEq, Repr

/-- The host operations of R560 that are no moves inside a callback (R584). -/
inductive HostOp where
  | initContext | pulseReset | run | get | set | cycles | idleDetected
  | installIntAck | installResetInstr | installTasInstr | installFcChange | setMap | save | load
  deriving DecidableEq, Repr

/-- The model faults of R503: the model has no meaning for the case. Exceptions are no faults. -/
inductive Fault where
  /-- An access to an unmapped region, or to a callback region without the hook (R105). Raised by
  every data access and vector read. Safe: the step has no result. -/
  | unmapped (a24 : Addr) (width : Nat) (direction : Direction)
  /-- An instruction fetch, PC-relative read or reset-vector read outside a pointer-backed region
  (R114, R116, R602). Safe. -/
  | fetchNotPointerBacked (addr : Long)
  /-- A PC-relative word or long read at an odd address (R116). Safe. -/
  | pcRelMisaligned (addr : Long)
  /-- An instruction stored into the next two words, or into the first two words of the target it
  jumps to (R130). Raised by every storing instruction. Safe: the step has no result. -/
  | prefetchHazard (addr : Addr)
  /-- int_ack answered neither a vector nor a sentinel (R543). Raised by an interrupt step. Safe. -/
  | badIackVector (level : Level) (answer : Long)
  /-- A callback called an operation that is no move inside a callback (R584). Safe. -/
  | hostCallInCallback (op : HostOp)
  /-- A write to an immediate or PC-relative location, which R163 says never happens: raised only
  by an ill-formed `Instr`, which no opcode word decodes to (log 20). Safe. -/
  | operandNotWritable
  deriving DecidableEq, Repr

/-- A refusal: no meaning for the instruction. -/
inductive Refusal where
  /-- The instruction has no meaning yet; raised by `exec`'s arm of that instruction only. Safe. -/
  | notModelled (mnemonic : String)
  deriving DecidableEq, Repr

/-! ### The parts of the state -/

/-- An entry of the memory map (R100): pointer-backed, callback-backed with each hook present or
absent, or unmapped. The bytes of the pointer-backed regions are `State.mem`. -/
inductive Region where
  | pointer
  | callbacks (read8 read16 write8 write16 : Bool)
  | unmapped
  deriving DecidableEq, Repr

/-- `run_mode` (R62). -/
inductive RunMode where
  | normal | group0
  deriving DecidableEq, Repr

/-- One of the four callbacks of R69: the default that `initialize` installs, or the host's. -/
inductive Handler where
  | default | host
  deriving DecidableEq, Repr

/-- The installed callbacks (R69). -/
structure Handlers where
  intAck : Handler := .default
  resetInstr : Handler := .default
  tasInstr : Handler := .default
  fcChange : Handler := .default
  deriving DecidableEq, Repr

/-- A move of the host inside a callback (R583); `other` is an operation that R584 forbids there. -/
inductive HostMove where
  | setIrq (l : Level)
  | setIrqDelay (l : Level)
  | setHalt
  | clearHalt
  | writeBytes (a : Addr) (bytes : List Byte)
  | other (op : HostOp)
  deriving DecidableEq, Repr

/-- The answer of a callback: a value, and the moves applied when it returns (R583). A hook takes
the low bits of the value; tas_instr allows when it is not 0 (log 1, 21). -/
structure Answer where
  value : Long
  moves : List HostMove
  deriving DecidableEq, Repr

/-- A call of a callback, as the host sees it (R588). -/
inductive Call where
  | read8 (a : Addr)
  | read16 (a : Addr)
  | write8 (a : Addr) (v : Byte)
  | write16 (a : Addr) (v : Word)
  | intAck (l : Level)
  | resetInstr
  | tasInstr
  | fcChange (fc : BitVec 3)
  deriving DecidableEq, Repr

/-- The copy of the registers that a rollback restores (R70). -/
structure Saved where
  d : Vector Long 8
  a : Vector Long 7
  usp : Long
  ssp : Long
  sr : Word
  deriving DecidableEq, Repr

/-- How a step ended (R570, R571): the result the run loop inspects, and what decides whether a
trace follows (R530) and the delayed level counts down (R567). -/
inductive StepEnd where
  /-- The instruction completed. -/
  | completed
  /-- The instruction raised a group 2 exception (R517). -/
  | group2
  /-- Illegal instruction, line A, line F or privilege violation: nothing executed (R514-R516). -/
  | decodeTime
  /-- An interrupt was taken (R544). -/
  | interrupt
  /-- Address-error processing ran; the details are the `aerr` fields (R522). -/
  | addressFault
  /-- Halted or stopped: nothing executed (R572). -/
  | idle
  deriving DecidableEq, Repr

/-- The state of one context. -/
structure State where
  /-- D0-D7 (R40). -/
  d : Vector Long 8
  /-- A0-A6 (R42); A7 is `usp` or `ssp`. -/
  a : Vector Long 7
  /-- The user stack pointer: A7 when S = 0, the shadow when S = 1 (R42). -/
  usp : Long
  /-- The supervisor stack pointer: A7 when S = 1, the shadow when S = 0 (R42). -/
  ssp : Long
  /-- The program counter (R45). -/
  pc : Long
  /-- The status register (R47). -/
  sr : Word
  /-- The instruction register (R56). -/
  ir : Word
  /-- PREF_ADDR (R57). -/
  prefAddr : Long
  /-- PREF_DATA (R57). -/
  prefData : Long
  /-- The function-code register (R58). -/
  fc : BitVec 3
  /-- `inst_pc` (R46), kept between steps (log 25). -/
  instPc : Long
  /-- `int_level` (R59). -/
  intLevel : Level
  /-- `nmi_pending` (R60). -/
  nmiPending : Bool
  /-- `delayed_irq`: a level and the instructions that remain, 0 or 1 (R61). -/
  delayedIrq : Option (Level × Fin 2)
  /-- `run_mode` (R62). -/
  runMode : RunMode
  /-- `stopped` (R64). -/
  stopped : Bool
  /-- `halt_pin` (R64). -/
  haltPin : Bool
  /-- `double_fault` (R64). -/
  doubleFault : Bool
  /-- `trace_pending` (R65). -/
  tracePending : Bool
  /-- `aerr_address` (R66). -/
  aerrAddress : Long
  /-- `aerr_write` (R66). -/
  aerrWrite : Bool
  /-- `aerr_instr` (R66). -/
  aerrInstr : Bool
  /-- `aerr_fc` (R66). -/
  aerrFc : BitVec 3
  /-- `saved` (R70), kept between steps (log 25). -/
  saved : Saved
  /-- `cycles_total` (R67). -/
  cyclesTotal : Nat
  /-- `cycles_run` (R67). -/
  cyclesRun : Nat
  /-- `budget` (R67). -/
  budget : Nat
  /-- `idle_pc` (R68). -/
  idlePc : Long
  /-- `idle_cycle` (R68). -/
  idleCycle : Nat
  /-- `idle_detected` (R68). -/
  idleDetected : Bool
  /-- The installed callbacks (R69). -/
  handlers : Handlers
  /-- The memory map: exactly 256 entries (R100). -/
  map : Vector Region 256
  /-- The bytes of the pointer-backed regions (R100, R102). -/
  mem : Memory
  /-- The model's: the configuration parameters of R8; no step changes them (log 5). -/
  cfg : Config
  /-- The model's: how many free values have been taken (log 2). -/
  draws : Nat
  /-- The model's: the callback answers still to come (log 1). -/
  script : List Answer
  /-- The model's: the callback calls made so far, oldest first (log 11). -/
  calls : List Call
  /-- The model's: how the last step ended (log 13). -/
  lastEnd : StepEnd
  deriving DecidableEq, Repr

/-- The machine right after reset: `initialize`, a map that covers the address space with
pointer-backed regions (log 7), and `pulse_reset` (R73, R600-R603). The registers the spec states
no value for are 0 (log 6), memory lists nothing and reads 0 (log 8), so the reset vector gives
SSP = 0 and PC = 0. -/
def State.reset : State where
  d := Vector.replicate 8 0
  a := Vector.replicate 7 0
  usp := 0
  ssp := 0
  pc := 0
  sr := 0x2700
  ir := 0
  prefAddr := 0
  prefData := 0
  fc := 6
  instPc := 0
  intLevel := 0
  nmiPending := false
  delayedIrq := none
  runMode := .normal
  stopped := false
  haltPin := false
  doubleFault := false
  tracePending := false
  aerrAddress := 0
  aerrWrite := false
  aerrInstr := false
  aerrFc := 0
  saved := { d := Vector.replicate 8 0, a := Vector.replicate 7 0, usp := 0, ssp := 0, sr := 0 }
  cyclesTotal := 40
  cyclesRun := 0
  budget := 0
  idlePc := 0
  idleCycle := 0
  idleDetected := false
  handlers := {}
  map := Vector.replicate 256 .pointer
  mem := []
  cfg := {}
  draws := 0
  script := []
  calls := [.fcChange 6]
  lastEnd := .idle

end Sys2Proof.Machine
end

