-- ==== Sys2Proof/Machine/Flags.lean ====
section
/-!
DEFINITION. The status register and the condition codes: fields of SR (R47), the conditions
(R50), and every flag computation of the spec (R52-R55, R320, R350-R367, R400). Arithmetic is done on
integers and narrowed at the end.
-/

namespace Sys2Proof.Machine

/-! ### Fields of SR -/

/-- The implemented bits of SR (R47). -/
def srMask : Word := 0xA71F

def State.flagC (s : State) : Bool := s.sr.getLsbD 0
def State.flagV (s : State) : Bool := s.sr.getLsbD 1
def State.flagZ (s : State) : Bool := s.sr.getLsbD 2
def State.flagN (s : State) : Bool := s.sr.getLsbD 3
def State.flagX (s : State) : Bool := s.sr.getLsbD 4

/-- S: supervisor state (R47). -/
def State.flagS (s : State) : Bool := s.sr.getLsbD 13

/-- T: trace enable (R47). -/
def State.flagT (s : State) : Bool := s.sr.getLsbD 15

/-- I2-I0: the interrupt mask (R47, R542). -/
def State.irqMask (s : State) : Level := (s.sr.extractLsb' 8 3).toFin

/-- The five condition codes. -/
structure Flags where
  x : Bool
  n : Bool
  z : Bool
  v : Bool
  c : Bool
  deriving DecidableEq, Repr

/-- The condition codes as `SR[4:0]` (R47). -/
def ccrBits (f : Flags) : BitVec 5 :=
  BitVec.ofBool f.x ++ BitVec.ofBool f.n ++ BitVec.ofBool f.z ++ BitVec.ofBool f.v
    ++ BitVec.ofBool f.c

/-- The condition codes of a state. -/
def State.flags (s : State) : Flags := ⟨s.flagX, s.flagN, s.flagZ, s.flagV, s.flagC⟩

/-- A write to CCR changes `SR[4:0]` only (R48). -/
def State.setCcr (s : State) (c : BitVec 5) : State :=
  { s with sr := s.sr.extractLsb' 5 11 ++ c }

/-- Write the five condition codes. -/
def State.setFlags (s : State) (f : Flags) : State := s.setCcr (ccrBits f)

/-- `SetSR(v)` (R49): keep the implemented bits. A7 switches with S because `readA` and `writeA`
choose the stack pointer by S. -/
def State.setSr (s : State) (v : Word) : State := { s with sr := v &&& srMask }

/-- `cond(cc)` (R50). -/
def condHolds (f : Flags) : Cond → Bool
  | .t => true
  | .f => false
  | .hi => !f.c && !f.z
  | .ls => f.c || f.z
  | .cc => !f.c
  | .cs => f.c
  | .ne => !f.z
  | .eq => f.z
  | .vc => !f.v
  | .vs => f.v
  | .pl => !f.n
  | .mi => f.n
  | .ge => f.n == f.v
  | .lt => f.n != f.v
  | .gt => !f.z && f.n == f.v
  | .le => f.z || f.n != f.v

/-! ### Addition and subtraction (R52-R54, R250) -/

/-- Outside the signed range of the size. -/
def outOfRange (sz : Size) (i : Int) : Bool :=
  i < -(2 ^ (bitsOf sz - 1) : Int) || (2 ^ (bitsOf sz - 1) : Int) ≤ i

/-- `trunc(d + s + x, sz)`. -/
def addValue (sz : Size) (d s : Long) (x : Bool) : Long :=
  trunc sz (d + s + (BitVec.ofBool x).setWidth 32)

/-- The flags of an addition (R52), with Z set from the result. -/
def addFlags (sz : Size) (d s : Long) (x : Bool) : Flags :=
  let r := addValue sz d s x
  let c := decide (2 ^ bitsOf sz ≤ (trunc sz d).toNat + (trunc sz s).toNat + x.toNat)
  { x := c
    n := msbOf sz r
    z := r == 0
    v := outOfRange sz (signedOf sz d + signedOf sz s + x.toInt)
    c := c }

/-- `trunc(d - s - x, sz)`. -/
def subValue (sz : Size) (d s : Long) (x : Bool) : Long :=
  trunc sz (d - s - (BitVec.ofBool x).setWidth 32)

/-- The flags of a subtraction (R53), with Z set from the result and X = C. -/
def subFlags (sz : Size) (d s : Long) (x : Bool) : Flags :=
  let r := subValue sz d s x
  let c := decide ((trunc sz d).toNat < (trunc sz s).toNat + x.toNat)
  { x := c
    n := msbOf sz r
    z := r == 0
    v := outOfRange sz (signedOf sz d - signedOf sz s - x.toInt)
    c := c }

/-- The multiprecision zero rule (R54): Z stays only when the result is 0. -/
def stickyZ (old : Bool) (f : Flags) : Flags := { f with z := f.z && old }

/-- The compares leave X (R53, R250 CmpOp). -/
def keepX (old : Bool) (f : Flags) : Flags := { f with x := old }

/-! ### Logic (R55, R320) -/

/-- `LogicFlags(r, sz)`: N and Z from the result, V = C = 0, X unchanged. -/
def logicFlags (oldX : Bool) (sz : Size) (r : Long) : Flags :=
  { x := oldX, n := msbOf sz r, z := trunc sz r == 0, v := false, c := false }

/-! ### Shifts and rotates (43_shift_rotate.md)

Each takes the flags before, the operand `d = trunc(D[y], sz)` and a count `n` of at least 1. -/

/-- Bit `i` of a value. -/
def bitAt (v : Long) (i : Nat) : Bool := v.getLsbD i

/-- ASL (R351): result. -/
def aslValue (sz : Size) (d : Long) (n : Nat) : Long := trunc sz (d <<< n)

/-- `C` of ASL and LSL (R351, R353): the last bit shifted out. -/
def leftCarry (sz : Size) (d : Long) (n : Nat) : Bool :=
  if n ≤ bitsOf sz then bitAt d (bitsOf sz - n) else false

/-- `V` of ASL (R351): set when the sign bit changed at any time. -/
def aslOverflow (sz : Size) (d : Long) (n : Nat) : Bool :=
  if n < bitsOf sz then
    !((List.range (n + 1)).all (fun i => bitAt d (bitsOf sz - 1 - i) == msbOf sz d))
  else trunc sz d != 0

/-- ASL (R351): flags. -/
def aslFlags (sz : Size) (d : Long) (n : Nat) : Flags :=
  let r := aslValue sz d n
  let c := leftCarry sz d n
  { x := c, n := msbOf sz r, z := r == 0, v := aslOverflow sz d n, c := c }

/-- LSL (R353): the result is that of ASL; V = 0. -/
def lslFlags (sz : Size) (d : Long) (n : Nat) : Flags := { aslFlags sz d n with v := false }

/-- ASR (R352): result. -/
def asrValue (sz : Size) (d : Long) (n : Nat) : Long := trunc sz ((sext sz d).sshiftRight n)

/-- ASR (R352): flags. -/
def asrFlags (sz : Size) (d : Long) (n : Nat) : Flags :=
  let r := asrValue sz d n
  let c := if n ≤ bitsOf sz then bitAt d (n - 1) else msbOf sz d
  { x := c, n := msbOf sz r, z := r == 0, v := false, c := c }

/-- LSR (R354): result. -/
def lsrValue (sz : Size) (d : Long) (n : Nat) : Long := trunc sz d >>> n

/-- LSR (R354): flags. -/
def lsrFlags (sz : Size) (d : Long) (n : Nat) : Flags :=
  let r := lsrValue sz d n
  let c := if n ≤ bitsOf sz then bitAt d (n - 1) else false
  { x := c, n := msbOf sz r, z := r == 0, v := false, c := c }

/-- Rotate the low `N(sz)` bits left by `k < N(sz)` places. -/
def rotLeft (sz : Size) (d : Long) (k : Nat) : Long :=
  trunc sz ((trunc sz d <<< k) ||| (trunc sz d >>> (bitsOf sz - k)))

/-- ROL (R355): result. -/
def rolValue (sz : Size) (d : Long) (n : Nat) : Long := rotLeft sz d (n % bitsOf sz)

/-- ROL (R355): flags; X unchanged. -/
def rolFlags (oldX : Bool) (sz : Size) (d : Long) (n : Nat) : Flags :=
  let r := rolValue sz d n
  { x := oldX, n := msbOf sz r, z := r == 0, v := false, c := bitAt r 0 }

/-- ROR (R356): result. -/
def rorValue (sz : Size) (d : Long) (n : Nat) : Long :=
  let k := n % bitsOf sz
  trunc sz ((trunc sz d >>> k) ||| (trunc sz d <<< (bitsOf sz - k)))

/-- ROR (R356): flags; X unchanged. -/
def rorFlags (oldX : Bool) (sz : Size) (d : Long) (n : Nat) : Flags :=
  let r := rorValue sz d n
  { x := oldX, n := msbOf sz r, z := r == 0, v := false, c := msbOf sz r }

/-- `X : d_in`, the `N(sz)+1` bits of R357. -/
def withX (x : Bool) (sz : Size) (d : Long) : BitVec 33 :=
  (trunc sz d).setWidth 33 ||| ((BitVec.ofBool x).setWidth 33 <<< bitsOf sz)

/-- Rotate the low `m` bits of a 33-bit value left by `k <= m` places. -/
def rot33 (m : Nat) (w : BitVec 33) (k : Nat) : BitVec 33 :=
  ((w <<< k) ||| (w >>> (m - k))) &&& ((1#33 <<< m) - 1)

/-- ROXL (R357): the rotated `X : d_in`. -/
def roxlBits (x : Bool) (sz : Size) (d : Long) (n : Nat) : BitVec 33 :=
  rot33 (bitsOf sz + 1) (withX x sz d) (n % (bitsOf sz + 1))

/-- ROXR (R358): the rotated `X : d_in`; right by k is left by `N(sz) + 1 - k`. -/
def roxrBits (x : Bool) (sz : Size) (d : Long) (n : Nat) : BitVec 33 :=
  rot33 (bitsOf sz + 1) (withX x sz d) (bitsOf sz + 1 - n % (bitsOf sz + 1))

/-- The operand part of a rotated `X : d_in`. -/
def roxValue (sz : Size) (w : BitVec 33) : Long := trunc sz (w.setWidth 32)

/-- The flags of ROXL and ROXR (R357, R358): X and C are the extend part. -/
def roxFlags (sz : Size) (w : BitVec 33) : Flags :=
  let r := roxValue sz w
  let c := w.getLsbD (bitsOf sz)
  { x := c, n := msbOf sz r, z := r == 0, v := false, c := c }

/-- A register shift by a count of 0 (R367). `xToC` marks ROXL and ROXR. -/
def shiftZeroFlags (policy : ShiftZeroPolicy) (xToC : Bool) (old : Flags) (sz : Size) (d : Long) :
    Flags :=
  match policy with
  | .unchanged => old
  | .prm => { x := old.x, n := msbOf sz d, z := trunc sz d == 0, v := false, c := xToC && old.x }

/-! ### Decimal arithmetic (R400, R406, R407) -/

/-- A valid BCD operand (R400). -/
def bcdValid (b : Byte) : Bool := (b >>> 4).toNat ≤ 9 && (b &&& 0x0F).toNat ≤ 9

/-- `dec(b)` (R400). -/
def bcdToNat (b : Byte) : Nat := 10 * (b >>> 4).toNat + (b &&& 0x0F).toNat

/-- `bcd(k)` for k in 0-99 (R400). -/
def bcdOfNat (k : Nat) : Byte := BitVec.ofNat 8 (16 * (k / 10) + k % 10)

/-- The total `t` of R400. -/
def bcdTotal (op : BcdOp) (s d : Byte) (x : Bool) : Int :=
  match op with
  | .abcd => (bcdToNat d : Int) + bcdToNat s + x.toInt
  | .sbcd => (bcdToNat d : Int) - bcdToNat s - x.toInt
  | .nbcd => 0 - (bcdToNat d : Int) - x.toInt

/-- `Dec(op, s, d, x)` (R400): the table for valid operands, BCD_INVALID otherwise (log 3). -/
def bcdResult (op : BcdOp) (s d : Byte) (x : Bool) : Byte × Bool :=
  if bcdValid s && bcdValid d then
    let t := bcdTotal op s d x
    (bcdOfNat (t % 100).toNat, match op with | .abcd => decide (100 ≤ t) | _ => decide (t < 0))
  else Config.bcdInvalid op s d x

/-- The flags of a decimal operation (R400-R406): C = X = carry, Z sticky, N and V by BCD_NV on the
X from before (log 3). -/
def bcdFlags (old : Flags) (op : BcdOp) (s d : Byte) : Flags :=
  let r := bcdResult op s d old.x
  let nv := Config.bcdNV op s d old.x
  { x := r.2, n := nv.1, z := old.z && r.1 == 0, v := nv.2, c := r.2 }

end Sys2Proof.Machine
end

