-- ==== Sys2Proof/Machine/Ops.lean ====
section
/-!
DEFINITION. The named operations over registers, memory, callbacks and exceptions: what
10_state.md, 20_memory.md and 60_exceptions.md define once for every instruction.
-/

namespace Sys2Proof.Machine

/-! ### The body of an instruction -/

/-- Why a body ends before its last line. -/
inductive Stop where
  /-- R113: an address error was detected and its fields are written; R522 follows. -/
  | addressError
  /-- A model fault (R503). -/
  | fault (f : Fault)
  deriving DecidableEq, Repr

/-- A body: a state transformer that may stop. The state at an address error is kept (R113). -/
abbrev Exec (α : Type) := EStateM Stop State α

/-- Read something of the state. -/
def look {α : Type} (f : State → α) : Exec α := fun s => .ok (f s) s

/-- Change the state. -/
def update (f : State → State) : Exec Unit := fun s => .ok () (f s)

/-- Record a model fault (R503). -/
def failWith {α : Type} (f : Fault) : Exec α := fun s => .error (.fault f) s

/-- Whether an access belongs to an instruction or to exception processing (R113, R130). -/
inductive Phase where
  | instruction | exception
  deriving DecidableEq, Repr

/-! ### Registers (R40-R44) -/

/-- `D[n] <- v`. -/
def State.writeD (s : State) (n : Reg) (v : Long) : State := { s with d := s.d.set n v }

/-- `D[n]`. -/
def State.readD (s : State) (n : Reg) : Long := s.d.get n

/-- `D[n] <-sz v` (R41). -/
def State.mergeD (s : State) (sz : Size) (n : Reg) (v : Long) : State :=
  s.writeD n (mergeLow sz (s.readD n) v)

/-- The active stack pointer (R42). -/
def State.activeSp (s : State) : Long := if s.flagS then s.ssp else s.usp

/-- Write the active stack pointer (R42). -/
def State.setActiveSp (s : State) (v : Long) : State :=
  if s.flagS then { s with ssp := v } else { s with usp := v }

/-- `A[n]` (R42). -/
def State.readA (s : State) (n : Reg) : Long :=
  if h : n.val < 7 then s.a[n.val] else s.activeSp

/-- `A[n] <- v`: all 32 bits (R43). -/
def State.writeA (s : State) (n : Reg) (v : Long) : State :=
  if h : n.val < 7 then { s with a := s.a.set n.val v } else s.setActiveSp v

/-- `R(0..7) = D0..D7`, `R(8..15) = A0..A7` (R200). -/
def State.readR (s : State) (i : Fin 16) : Long :=
  if h : i.val < 8 then s.readD ⟨i.val, h⟩ else s.readA ⟨i.val - 8, by omega⟩

/-- Write `R(i)` whole (R205). -/
def State.writeR (s : State) (i : Fin 16) (v : Long) : State :=
  if h : i.val < 8 then s.writeD ⟨i.val, h⟩ v else s.writeA ⟨i.val - 8, by omega⟩ v

/-- The registers of the rollback copy (R70). -/
def State.registers (s : State) : Saved :=
  { d := s.d, a := s.a, usp := s.usp, ssp := s.ssp, sr := s.sr }

/-- Take the rollback copy (R70). -/
def State.takeSaved (s : State) : State := { s with saved := s.registers }

/-- Restore D0-D7, A0-A6, USP, SSP and SR from the copy (R522). -/
def State.restoreSaved (s : State) : State :=
  { s with d := s.saved.d, a := s.saved.a, usp := s.saved.usp, ssp := s.saved.ssp,
           sr := s.saved.sr }

/-- `pc <- v` (R45). -/
def State.setPc (s : State) (v : Long) : State := { s with pc := v }

/-! ### Free values (log 2) -/

/-- A fresh free bit. -/
def drawBit : Exec Bool := fun s => .ok (Config.freeBit s.draws) { s with draws := s.draws + 1 }

/-- A fresh free long. -/
def drawLong : Exec Long := fun s => .ok (Config.freeLong s.draws) { s with draws := s.draws + 1 }

/-! ### The interrupt lines and the host's moves (R566-R568, R583) -/

/-- `set_irq(l)` (R566, R541). -/
def setIrq (l : Level) (s : State) : State :=
  { s with
    intLevel := l
    delayedIrq := none
    nmiPending := s.nmiPending || (s.intLevel != 7 && l == 7) }

/-- `set_irq_delay(l)` (R567). -/
def setIrqDelay (l : Level) (s : State) : State := { s with delayedIrq := some (l, 1) }

/-- `set_halt()` (R568). -/
def setHalt (s : State) : State := { s with haltPin := true }

/-- `clear_halt()` (R568). -/
def clearHalt (s : State) : State := { s with haltPin := false }

/-- The map entry of a bus address (R101). -/
def State.region (s : State) (a : Addr) : Region := s.map.get (regionOf a)

/-- Store a byte of a pointer-backed region; other regions hold no core storage (log 18). -/
def pokeByte (a : Addr) (v : Byte) (s : State) : State :=
  if s.region a = .pointer then { s with mem := s.mem.write a.toNat v } else s

/-- Store bytes from an address on. -/
def pokeBytes : Addr → List Byte → State → State
  | _, [], s => s
  | a, v :: vs, s => pokeBytes (a + 1) vs (pokeByte a v s)

/-- One host move inside a callback (R583, R584). -/
def applyMove (m : HostMove) : Exec Unit :=
  match m with
  | .setIrq l => update (setIrq l)
  | .setIrqDelay l => update (setIrqDelay l)
  | .setHalt => update setHalt
  | .clearHalt => update clearHalt
  | .writeBytes a vs => update (pokeBytes a vs)
  | .other op => failWith (.hostCallInCallback op)

/-- The host moves of one answer, in order (R583). -/
def applyMoves : List HostMove → Exec Unit
  | [] => pure ()
  | m :: ms => do
    applyMove m
    applyMoves ms

/-- The answer of a callback of the host (R583): the next of the script, its moves applied; a free
value with no moves when the script is empty (log 1). -/
def hostAnswer : Exec Long := do
  match ← look State.script with
  | [] => drawLong
  | ans :: rest =>
    update fun s => { s with script := rest }
    applyMoves ans.moves
    pure ans.value

/-- Record a call (log 11). -/
def recordCall (c : Call) : Exec Unit := update fun s => { s with calls := s.calls ++ [c] }

/-- Call a memory hook (R103). -/
def callHook (c : Call) : Exec Long := do
  recordCall c
  hostAnswer

/-- Call one of the four callbacks (R69): the default answers `dflt` and does nothing else. -/
def callHandler (h : Handler) (c : Call) (dflt : Long) : Exec Long := do
  recordCall c
  match h with
  | .default => pure dflt
  | .host => hostAnswer

/-! ### Function codes (R120) -/

/-- FC of a data access. -/
def State.dataFc (s : State) : BitVec 3 := if s.flagS then 5 else 1

/-- FC of a fetch or a PC-relative read. -/
def State.programFc (s : State) : BitVec 3 := if s.flagS then 6 else 2

/-- Drive FC before an access; a change calls fc_change (R120, log 22). -/
def driveFc (fc : BitVec 3) : Exec Unit := do
  let s ← look id
  if s.cfg.fcEmulation && s.fc != fc then
    update fun s => { s with fc := fc }
    let _ ← callHandler s.handlers.fcChange (.fcChange fc) 0
    pure ()
  else pure ()

/-! ### Bus accesses (R101-R107) -/

/-- Read a byte (R102, R103, R105). -/
def busRead8 (a : Addr) : Exec Byte := do
  let s ← look id
  match s.region a with
  | .pointer => pure (s.mem.read a.toNat)
  | .callbacks true _ _ _ => do
    let v ← callHook (.read8 a)
    pure (v.setWidth 8)
  | _ => failWith (.unmapped a 1 .read)

/-- Read a word at an even address, big-endian (R102, R103, R105, R106). -/
def busRead16 (a : Addr) : Exec Word := do
  let s ← look id
  match s.region a with
  | .pointer => pure (s.mem.read a.toNat ++ s.mem.read (a + 1).toNat)
  | .callbacks _ true _ _ => do
    let v ← callHook (.read16 a)
    pure (v.setWidth 16)
  | _ => failWith (.unmapped a 2 .read)

/-- Write a byte (R102, R103, R105). -/
def busWrite8 (a : Addr) (v : Byte) : Exec Unit := do
  let s ← look id
  match s.region a with
  | .pointer => update (pokeByte a v)
  | .callbacks _ _ true _ => do
    let _ ← callHook (.write8 a v)
    pure ()
  | _ => failWith (.unmapped a 1 .write)

/-- Write a word at an even address, big-endian (R102, R103, R105, R106). -/
def busWrite16 (a : Addr) (v : Word) : Exec Unit := do
  let s ← look id
  match s.region a with
  | .pointer => update (pokeBytes a [v.extractLsb' 8 8, v.extractLsb' 0 8])
  | .callbacks _ _ _ true => do
    let _ ← callHook (.write16 a v)
    pure ()
  | _ => failWith (.unmapped a 2 .write)

/-- Read 1, 2 or 4 bytes; a long is two words, high word first, each half translated by its own
address (R104). -/
def busRead (sz : Size) (addr : Long) : Exec Long :=
  match sz with
  | .b => do
    let v ← busRead8 (busAddr addr)
    pure (v.setWidth 32)
  | .w => do
    let v ← busRead16 (busAddr addr)
    pure (v.setWidth 32)
  | .l => do
    let hi ← busRead16 (busAddr addr)
    let lo ← busRead16 (busAddr (addr + 2))
    pure (hi ++ lo)

/-- Write 1, 2 or 4 bytes; a long is two words, high word first (R104). -/
def busWrite (sz : Size) (addr : Long) (v : Long) : Exec Unit :=
  match sz with
  | .b => busWrite8 (busAddr addr) (v.setWidth 8)
  | .w => busWrite16 (busAddr addr) (v.setWidth 16)
  | .l => do
    busWrite16 (busAddr addr) (v.extractLsb' 16 16)
    busWrite16 (busAddr (addr + 2)) (v.extractLsb' 0 16)

/-! ### Alignment (R112, R113) -/

/-- A word or long access at an odd address (R112). -/
def misaligned (sz : Size) (addr : Long) : Bool := sz != .b && addr.getLsbD 0

/-- Detect an address error: write the fault-capture fields and stop (R113, log 24). -/
def raiseAddressError {α : Type} (ph : Phase) (addr : Long) (write : Bool) (fc : BitVec 3) :
    Exec α := fun s =>
  .error .addressError { s with aerrAddress := addr, aerrWrite := write,
                                aerrInstr := ph == .instruction, aerrFc := fc }

/-! ### Data space (R110, R111, R130) -/

/-- `MemRead(addr, n)` (R110). -/
def memRead (ph : Phase) (sz : Size) (addr : Long) : Exec Long := do
  let fc ← look State.dataFc
  if misaligned sz addr then raiseAddressError ph addr false fc
  else do
    driveFc fc
    busRead sz addr

/-- The bytes of an access, on the bus. -/
def bytesFrom (addr : Long) (n : Nat) : List Addr :=
  (List.range n).map fun i => busAddr addr + BitVec.ofNat 24 i

/-- A byte of `[base, base + 4)` on the 24-bit bus (R130). -/
def inWindow (base : Long) (a : Addr) : Bool := decide ((a - busAddr base).toNat < 4)

/-- The prefetch-hazard check of one store against one window (R130, log 17). -/
def hazardCheck (base addr : Long) (n : Nat) : Exec Unit :=
  match (bytesFrom addr n).find? (inWindow base) with
  | some a => failWith (.prefetchHazard a)
  | none => pure ()

/-- `MemWrite(addr, n, v)` (R111). A store of an instruction is checked against the next two words
(R130). -/
def memWrite (ph : Phase) (sz : Size) (addr : Long) (v : Long) : Exec Unit := do
  let fc ← look State.dataFc
  if misaligned sz addr then raiseAddressError ph addr true fc
  else do
    driveFc fc
    busWrite sz addr v
    match ph with
    | .instruction => do
      let next ← look State.pc
      hazardCheck next addr (bytesOf sz)
    | .exception => pure ()

/-- `Push(n, v)`: A7 down, then the write (00_scope.md section 5). -/
def push (ph : Phase) (sz : Size) (v : Long) : Exec Unit := do
  update fun s => s.setActiveSp (s.activeSp - BitVec.ofNat 32 (bytesOf sz))
  let sp ← look State.activeSp
  memWrite ph sz sp v

/-- `Pop(n)`: the read, then A7 up (00_scope.md section 5). -/
def pop (ph : Phase) (sz : Size) : Exec Long := do
  let sp ← look State.activeSp
  let v ← memRead ph sz sp
  update fun s => s.setActiveSp (s.activeSp + BitVec.ofNat 32 (bytesOf sz))
  pure v

/-! ### Program space (R114-R116, R602) -/

/-- A word of a pointer-backed region, with no hook (R114 steps 3 and 4). -/
def fastWord (addr : Long) : Exec Word := do
  let s ← look id
  let a := busAddr addr
  if s.region a = .pointer then pure (s.mem.read a.toNat ++ s.mem.read (a + 1).toNat)
  else failWith (.fetchNotPointerBacked addr)

/-- A byte of a pointer-backed region, with no hook (R116). -/
def fastByte (addr : Long) : Exec Byte := do
  let s ← look id
  let a := busAddr addr
  if s.region a = .pointer then pure (s.mem.read a.toNat)
  else failWith (.fetchNotPointerBacked addr)

/-- `FetchWord()` (R114). -/
def fetchWord : Exec Word := do
  let pc ← look State.pc
  let fc ← look State.programFc
  if pc.getLsbD 0 then raiseAddressError .instruction pc false fc
  else do
    driveFc fc
    let w ← fastWord pc
    update fun s => s.setPc (pc + 2)
    pure w

/-- `FetchLong()` (R115). -/
def fetchLong : Exec Long := do
  let hi ← fetchWord
  let lo ← fetchWord
  pure (hi ++ lo)

/-- `MemReadPC(addr, n)` (R116); an odd word or long is a fault, checked first (log 19). -/
def memReadPc (sz : Size) (addr : Long) : Exec Long := do
  if misaligned sz addr then failWith (.pcRelMisaligned addr)
  else do
    driveFc (← look State.programFc)
    match sz with
    | .b => do
      let v ← fastByte addr
      pure (v.setWidth 32)
    | .w => do
      let v ← fastWord addr
      pure (v.setWidth 32)
    | .l => do
      let hi ← fastWord addr
      let lo ← fastWord (addr + 2)
      pure (hi ++ lo)

/-! ### Taking an exception (R510, R522) -/

/-- SR on exception entry (R510): S set, T cleared, and for an interrupt the mask set to its level. -/
def entrySr (sr : Word) (mask : Option Level) : Word :=
  match mask with
  | none => (sr ||| 0x2000) &&& ~~~(0x8000 : Word)
  | some l => ((sr ||| 0x2000) &&& ~~~(0x8000 : Word) &&& ~~~(0x0700 : Word)) ||| (BitVec.ofNat 16 l.val <<< 8)

/-- The address of a vector (R500). -/
def vectorAddr (v : Byte) : Long := v.setWidth 32 <<< 2

/-- `ExceptionEntry(v, stacked_pc, mask)` (R510), the one entry of groups 1 and 2. -/
def exceptionEntry (v : Byte) (stackedPc : Long) (mask : Option Level) : Exec Unit := do
  update State.takeSaved
  let old ← look State.sr
  update fun s => s.setSr (entrySr s.sr mask)
  push .exception .l stackedPc
  push .exception .w (old.setWidth 32)
  let handler ← memRead .exception .l (vectorAddr v)
  update fun s => { s with pc := handler, stopped := false }

/-- The status word of an address-error frame (R523); bits 15:5 are those of a free long. -/
def aerrStatus (free : Long) (s : State) : Word :=
  free.extractLsb' 5 11 ++ BitVec.ofBool (!s.aerrWrite) ++ BitVec.ofBool (!s.aerrInstr) ++ s.aerrFc

/-- `AddressErrorProcessing()` (R522, R523, R524), when it is no double fault. -/
def addressErrorBody : Exec Unit := do
  update fun s => { s.restoreSaved with runMode := .group0 }
  let old ← look id
  update fun s => s.setSr (entrySr s.sr none)
  let stackedPc ← drawLong
  let free ← drawLong
  push .exception .l stackedPc
  push .exception .w (old.sr.setWidth 32)
  push .exception .w (old.ir.setWidth 32)
  push .exception .l old.aerrAddress
  push .exception .w ((aerrStatus free old).setWidth 32)
  let handler ← memRead .exception .l 12
  update fun s => { s with pc := handler, runMode := .normal, stopped := false }

/-! ### Ending a step (R565, R571) -/

/-- `Charge(c)` (R565). -/
def charge (c : Nat) (s : State) : State :=
  { s with cyclesRun := s.cyclesRun + c, cyclesTotal := s.cyclesTotal + c }

/-- Record how the step ended (log 13) and charge its cost, by the table CYCLES (R571, R630). -/
def finish (e : StepEnd) (cost : Cost) (s : State) : State :=
  charge (cost s.cfg.cycles) { s with lastEnd := e }

/-- R525: a second address error while `run_mode = GROUP0`; the step ends and the core is halted. -/
def doubleFault (s : State) : State :=
  finish .addressFault (·.exception.addressError) { s with doubleFault := true }

/-- What follows a detected address error (R522, R525): the processing, at its own cost (R643,
log 16). -/
def addressError (s : State) : Host.Outcome State Fault Refusal :=
  match s.runMode with
  | .group0 => .next (doubleFault s)
  | .normal =>
    match addressErrorBody s with
    | .ok _ t => .next (finish .addressFault (·.exception.addressError) t)
    | .error .addressError t => .next (doubleFault t)
    | .error (.fault f) _ => .fault f

/-- Take a group 1 or group 2 exception and end the step as `e` at a cost (R510, R643). -/
def takeException (e : StepEnd) (cost : Cost) (v : Byte) (stackedPc : Long) (mask : Option Level)
    (s : State) : Host.Outcome State Fault Refusal :=
  match exceptionEntry v stackedPc mask s with
  | .ok _ t => .next (finish e cost t)
  | .error .addressError t => addressError t
  | .error (.fault f) _ => .fault f

/-- How a body completes: with its cost, or in a group 2 exception with the exception's cost. -/
inductive Done where
  | completed (cost : Cost)
  | group2 (vector : Byte) (cost : Cost)

/-- Perform the rule of an instruction (R571): its body, the group 2 exception it raises with the
next instruction's address stacked (R511, R517), or the address error it ran into (R522). -/
def perform (body : Exec Done) (s : State) : Host.Outcome State Fault Refusal :=
  match body s with
  | .ok (.completed cost) t => .next (finish .completed cost t)
  | .ok (.group2 v cost) t => takeException .group2 cost v t.pc none t
  | .error .addressError t => addressError t
  | .error (.fault f) _ => .fault f

/-- An exception raised at decode (R514-R516): nothing of the instruction happens, `inst_pc` is
stacked (R511). -/
def decodeTimeException (v : Byte) (cost : Cost) (s : State) :
    Host.Outcome State Fault Refusal :=
  takeException .decodeTime cost v s.instPc none s

/-- Illegal instruction, line A and line F (R514, R515), at their cost (R643). -/
def illegalException (v : Byte) (s : State) : Host.Outcome State Fault Refusal :=
  decodeTimeException v (·.exception.illegal) s

/-- The privilege check of R479, before any extension word is fetched: vector 8 when S = 0. -/
def privileged (body : Exec Done) (s : State) : Host.Outcome State Fault Refusal :=
  if s.flagS then perform body s else decodeTimeException 8 (·.exception.privilege) s

/-- The return from an exception (R472): the frame of R512 popped, SR and then pc written. -/
def returnFromException : Exec Unit := do
  let sr ← pop .instruction .w
  let np ← pop .instruction .l
  update fun s => (s.setSr (sr.setWidth 16)).setPc np

end Sys2Proof.Machine
end

