-- ==== Sys2Proof/Machine/Operands.lean ====
section
/-!
DEFINITION. Every operand form: `ResolveEA` with its side effects and extension words
(R160-R165), operand access (R163), immediates (R155), index words (R154) and branch
displacements (R158).
-/

namespace Sys2Proof.Machine

/-- An operand location (R160). -/
inductive Loc where
  | dreg (n : Reg)
  | areg (n : Reg)
  | mem (a : Long)
  | pcMem (a : Long)
  | imm (v : Long)
  deriving DecidableEq, Repr

/-- `step(n, sz)`: a byte through A7 steps by 2 (R160, R161). -/
def stepOf (n : Reg) (sz : Size) : Long :=
  match sz with
  | .b => if n = 7 then 2 else 1
  | .w => 2
  | .l => 4

/-- `Index(e)` (R154, R160): the index register, whole or its sign-extended low word. -/
def indexValue (s : State) (e : Word) : Long :=
  let n : Reg := (e.extractLsb' 12 3).toFin
  let r := if e.getLsbD 15 then s.readA n else s.readD n
  if e.getLsbD 11 then r else sext .w r

/-- The displacement of a brief extension word, `sext_32(e[7:0])` (R154). -/
def briefDisp (e : Word) : Long := (e.setWidth 8).signExtend 32

/-- `Imm(sz)` (R155): one word, the low byte of one word, or two words. -/
def immediate : Size → Exec Long
  | .b => do
    let w ← fetchWord
    pure ((w.setWidth 8).setWidth 32)
  | .w => do
    let w ← fetchWord
    pure (w.setWidth 32)
  | .l => fetchLong

/-- A displacement word, sign-extended (R158). -/
def fetchDisp : Exec Long := do
  let w ← fetchWord
  pure (w.signExtend 32)

/-- `ResolveEA(mode, reg, sz)` (R160). -/
def resolveEa (sz : Size) (ea : EA) : Exec Loc :=
  match ea with
  | .dreg n => pure (.dreg n)
  | .areg n => pure (.areg n)
  | .ind n => do
    let a ← look fun s => s.readA n
    pure (.mem a)
  | .postInc n => do
    let a ← look fun s => s.readA n
    update fun s => s.writeA n (a + stepOf n sz)
    pure (.mem a)
  | .preDec n => do
    let a ← look fun s => s.readA n - stepOf n sz
    update fun s => s.writeA n a
    pure (.mem a)
  | .disp n => do
    let d ← fetchDisp
    let a ← look fun s => s.readA n
    pure (.mem (a + d))
  | .index n => do
    let e ← fetchWord
    let a ← look fun s => s.readA n + indexValue s e
    pure (.mem (a + briefDisp e))
  | .absW => do
    let d ← fetchDisp
    pure (.mem d)
  | .absL => do
    let l ← fetchLong
    pure (.mem l)
  | .pcDisp => do
    let base ← look State.pc
    let d ← fetchDisp
    pure (.pcMem (base + d))
  | .pcIndex => do
    let base ← look State.pc
    let e ← fetchWord
    let i ← look fun s => indexValue s e
    pure (.pcMem (base + i + briefDisp e))
  | .imm => do
    let v ← immediate sz
    pure (.imm v)

/-- `Read(loc, sz)` (R163). -/
def readLoc (sz : Size) (loc : Loc) : Exec Long :=
  match loc with
  | .dreg n => look fun s => trunc sz (s.readD n)
  | .areg n => look fun s => trunc sz (s.readA n)
  | .mem a => memRead .instruction sz a
  | .pcMem a => memReadPc sz a
  | .imm v => pure v

/-- `Write(loc, sz, v)` (R163). An immediate or PC-relative location is never written (log 20). -/
def writeLoc (sz : Size) (loc : Loc) (v : Long) : Exec Unit :=
  match loc with
  | .dreg n => update fun s => s.mergeD sz n v
  | .areg n => update fun s => s.writeA n v
  | .mem a => memWrite .instruction sz a v
  | .pcMem _ => failWith .operandNotWritable
  | .imm _ => failWith .operandNotWritable

/-- `Src(sz)` (R200). -/
def source (sz : Size) (ea : EA) : Exec Long := do
  let loc ← resolveEa sz ea
  readLoc sz loc

/-- `Addr(loc)` (R200); a register or immediate location has none (log 20). -/
def addrOf (loc : Loc) : Exec Long :=
  match loc with
  | .mem a => pure a
  | .pcMem a => pure a
  | _ => failWith .operandNotWritable

/-- `ReadLoc(loc, a, n)` (R200). -/
def readAtLoc (loc : Loc) (sz : Size) (a : Long) : Exec Long :=
  match loc with
  | .pcMem _ => memReadPc sz a
  | _ => memRead .instruction sz a

/-- The extra read of DUMMY_READS before a write to memory (R125). -/
def dummyRead (sz : Size) (loc : Loc) : Exec Unit := do
  let cfg ← look State.cfg
  match cfg.dummyReads, loc with
  | true, .mem a => do
    let _ ← memRead .instruction sz a
    pure ()
  | _, _ => pure ()

/-- A read-modify-write operand, resolved once (R164): read `d`, then write `f d`. -/
def modify (sz : Size) (ea : EA) (f : Long → Exec Long) : Exec Unit := do
  let loc ← resolveEa sz ea
  let d ← readLoc sz loc
  let r ← f d
  writeLoc sz loc r

/-- The displacement of a branch (R158): the byte of the opcode word, or the next word when that
byte is 0. -/
def branchDisp (d8 : Byte) : Exec Long :=
  if d8 = 0 then fetchDisp else pure (d8.signExtend 32)

/-- The value of a quick data field: 0 stands for 8 (R157). -/
def quickValue (q : Reg) : Long := if q = 0 then 8 else BitVec.ofNat 32 q.val

/-- The count of a register shift (R350): 1-8, or a data register modulo 64. -/
def shiftCount (s : State) : Count → Nat
  | .imm c => if c = 0 then 8 else c.val
  | .reg c => (s.readD c).toNat % 64

/-- The bit number modulo the operand's width (R380). -/
def bitIndex (sz : Size) (bitno : Long) : Nat := bitno.toNat % bitsOf sz

/-- The operand size of a bit operation: a long in a data register, else a byte (R380). -/
def bitSize : EA → Size
  | .dreg _ => .l
  | _ => .b

/-! ### Flag-setting operations (R250, R320) -/

/-- Write all five condition codes, given those before. -/
def setFlagsFrom (f : Flags → Flags) : Exec Unit := update fun s => s.setFlags (f s.flags)

/-- `LogicFlags(r, sz)` (R320). -/
def setLogic (sz : Size) (r : Long) : Exec Unit := setFlagsFrom fun old => logicFlags old.x sz r

/-- `AddOp(d, s, 0, sz)` (R250). -/
def addOp (sz : Size) (d s : Long) : Exec Long := do
  setFlagsFrom fun _ => addFlags sz d s false
  pure (addValue sz d s false)

/-- `AddXOp(d, s, sz)` (R250). -/
def addXOp (sz : Size) (d s : Long) : Exec Long := do
  let x ← look State.flagX
  setFlagsFrom fun old => stickyZ old.z (addFlags sz d s x)
  pure (addValue sz d s x)

/-- `SubOp(d, s, 0, sz)` (R250). -/
def subOp (sz : Size) (d s : Long) : Exec Long := do
  setFlagsFrom fun _ => subFlags sz d s false
  pure (subValue sz d s false)

/-- `SubXOp(d, s, sz)` (R250). -/
def subXOp (sz : Size) (d s : Long) : Exec Long := do
  let x ← look State.flagX
  setFlagsFrom fun old => stickyZ old.z (subFlags sz d s x)
  pure (subValue sz d s x)

/-- `CmpOp(d, s, sz)` (R250). -/
def cmpOp (sz : Size) (d s : Long) : Exec Unit :=
  setFlagsFrom fun old => keepX old.x (subFlags sz d s false)

/-- A logical operation: its flags (R320), then its result. -/
def logicOp (sz : Size) (r : Long) : Exec Long := do
  setLogic sz r
  pure r

/-- Z from a tested bit, the other flags unchanged (R380). -/
def setZFromBit (v : Long) (n : Nat) : Exec Unit :=
  setFlagsFrom fun old => { old with z := !bitAt v n }

/-- `D[n] <-sz v`. -/
def storeD (sz : Size) (n : Reg) (v : Long) : Exec Unit := update fun s => s.mergeD sz n v

/-- `A[n] <- v`. -/
def storeA (n : Reg) (v : Long) : Exec Unit := update fun s => s.writeA n v

/-- `trunc(D[n], sz)`. -/
def loadD (sz : Size) (n : Reg) : Exec Long := look fun s => trunc sz (s.readD n)

/-- `A[n]`. -/
def loadA (n : Reg) : Exec Long := look fun s => s.readA n

end Sys2Proof.Machine
end

