-- ==== Sys2Proof/Machine/Cycles.lean ====
section
/-!
DEFINITION. The costs of instructions (R630-R648): which entry of the table CYCLES an operand form
and, where a rule says so, an operand value selects. The table is `Config.cycles`.
-/

namespace Sys2Proof.Machine

/-- The operand is a register or immediate: the forms for which a long ADD, SUB, AND or OR to a
register has an entry of its own (R633). -/
def isRegOrImm : EA → Bool
  | .dreg _ | .areg _ | .imm => true
  | _ => false

/-- The operand is a data register. -/
def isDreg : EA → Bool
  | .dreg _ => true
  | _ => false

/-- The column of a size. -/
def sizedTime (sz : Size) (e : SizedCost) : Nat := if sz = .l then e.l else e.bw

/-- `ea(m, sz)` (R631). -/
def eaTime (ea : EA) (sz : Size) : Cost := fun c =>
  sizedTime sz <| match ea with
    | .dreg _ | .areg _ => c.ea.reg
    | .ind _ => c.ea.ind
    | .postInc _ => c.ea.postInc
    | .preDec _ => c.ea.preDec
    | .disp _ => c.ea.disp
    | .index _ => c.ea.index
    | .absW => c.ea.absW
    | .absL => c.ea.absL
    | .pcDisp => c.ea.pcDisp
    | .pcIndex => c.ea.pcIndex
    | .imm => c.ea.imm

/-- The destination rows of MOVE (R632): `-(An)` costs the same as `(An)`. A destination is data
alterable, so the other forms select nothing. -/
def moveDstTime (ea : EA) (sz : Size) : Cost := fun c =>
  match ea with
  | .dreg _ | .areg _ => sizedTime sz c.move.reg
  | .ind _ | .postInc _ | .preDec _ => sizedTime sz c.move.ind
  | .disp _ | .absW => sizedTime sz c.move.disp
  | .index _ => sizedTime sz c.move.index
  | .absL => sizedTime sz c.move.absL
  | .pcDisp | .pcIndex | .imm => 0

/-- MOVE and MOVEA (R632). -/
def moveTime (sz : Size) (src dst : EA) : Cost := fun c =>
  c.move.base + eaTime src sz c + moveDstTime dst sz c

/-- A base that adds the EA time of an operand. -/
def withEa (base : Cost) (ea : EA) (sz : Size) : Cost := fun c => base c + eaTime ea sz c

/-- A base with an entry of its own for a long register or immediate operand (R633). -/
def directTime (base : CycleTable → SizedCost) (direct : Cost) (sz : Size) (ea : EA) : Cost :=
  withEa (fun c => if sz = .l ∧ isRegOrImm ea then direct c else sizedTime sz (base c)) ea sz

/-- The Dn column, or the memory column with the EA time. -/
def operandTime (e : CycleTable → OperandCost) (sz : Size) (ea : EA) : Cost := fun c =>
  if isDreg ea then sizedTime sz (e c).dn else sizedTime sz (e c).mem + eaTime ea sz c

/-- The same for an instruction with operands of the one size `sz`. -/
def byteTime (e : CycleTable → ByteCost) (sz : Size) (ea : EA) : Cost := fun c =>
  if isDreg ea then (e c).dn else (e c).mem + eaTime ea sz c

/-- ADD, SUB `<ea>,Dn` (R633). -/
def toRegTime (sz : Size) (ea : EA) : Cost :=
  directTime (·.standard.addDn) (·.standard.addDnDirect) sz ea

/-- AND, OR `<ea>,Dn` (R633). -/
def logicRegTime (sz : Size) (ea : EA) : Cost :=
  directTime (·.standard.logicDn) (·.standard.logicDnDirect) sz ea

/-- ADDA and SUBA (R633). -/
def toAddrTime (sz : Size) (ea : EA) : Cost :=
  directTime (·.standard.addAn) (·.standard.addAnDirect) sz ea

/-- ADD, SUB `Dn,<ea>` in memory (R633). -/
def toMemTime (sz : Size) (ea : EA) : Cost := withEa (sizedTime sz ·.standard.addMem) ea sz

/-- AND, OR `Dn,<ea>` in memory (R633). -/
def logicMemTime (sz : Size) (ea : EA) : Cost := withEa (sizedTime sz ·.standard.logicMem) ea sz

/-- CMP (R633). -/
def cmpTime (sz : Size) (ea : EA) : Cost := withEa (sizedTime sz ·.standard.cmpDn) ea sz

/-- CMPA (R633). -/
def cmpaTime (sz : Size) (ea : EA) : Cost := withEa (sizedTime sz ·.standard.cmpAn) ea sz

/-- EOR (R633). -/
def eorTime (sz : Size) (ea : EA) : Cost := operandTime (·.standard.eor) sz ea

/-- ADDI, SUBI (R634). -/
def addiTime (sz : Size) (ea : EA) : Cost := operandTime (·.immediate.addi) sz ea

/-- ANDI (R634). -/
def andiTime (sz : Size) (ea : EA) : Cost := operandTime (·.immediate.andi) sz ea

/-- ORI, EORI (R634). -/
def oriTime (sz : Size) (ea : EA) : Cost := operandTime (·.immediate.ori) sz ea

/-- CMPI (R634). -/
def cmpiTime (sz : Size) (ea : EA) : Cost := operandTime (·.immediate.cmpi) sz ea

/-- ADDQ and SUBQ (R634). -/
def quickTime (sz : Size) (ea : EA) : Cost := fun c =>
  match ea with
  | .areg _ => sizedTime sz c.immediate.addqAn
  | _ => operandTime (·.immediate.addq) sz ea c

/-- CLR, NEG, NEGX, NOT (R635). -/
def unaryTime (sz : Size) (ea : EA) : Cost := operandTime (·.single.unary) sz ea

/-- TST (R635). -/
def tstTime (sz : Size) (ea : EA) : Cost := operandTime (·.single.tst) sz ea

/-- NBCD (R635). -/
def nbcdTime (ea : EA) : Cost := byteTime (·.single.nbcd) .b ea

/-- Scc (R635). -/
def sccTime (taken : Bool) (ea : EA) : Cost :=
  byteTime (if taken then (·.single.sccTrue) else (·.single.sccFalse)) .b ea

/-- TAS (R635). -/
def tasTime (ea : EA) : Cost := byteTime (·.single.tas) .b ea

/-- A register shift by `n` (R636). -/
def shiftRegTime (sz : Size) (n : Nat) : Cost := fun c =>
  sizedTime sz c.shift.reg + c.shift.perBit * n

/-- A memory shift (R636). -/
def shiftMemTime (ea : EA) : Cost := withEa (·.shift.mem) ea .w

/-- A row of R637. -/
def bitTime (row : BitCosts → ByteCost) (ea : EA) : Cost := byteTime (fun c => row c.bit) .b ea

/-- The displacement column of R638. -/
def branchTime (e : BranchCosts → BranchCost) (d8 : Byte) : Cost := fun c =>
  if d8 = 0 then (e c.branch).long else (e c.branch).short

/-- Bcc (R638). -/
def bccTime (taken : Bool) (d8 : Byte) : Cost :=
  branchTime (if taken then (·.taken) else (·.notTaken)) d8

/-- The columns of R639 and R640 over the control modes. -/
def controlTime (e : ControlCosts) : EA → Nat
  | .ind _ => e.ind
  | .disp _ => e.disp
  | .index _ => e.index
  | .absW => e.absW
  | .absL => e.absL
  | .pcDisp => e.pcDisp
  | .pcIndex => e.pcIndex
  | _ => 0

/-- JMP (R639). -/
def jmpTime (ea : EA) : Cost := fun c => controlTime c.address.jmp ea

/-- JSR (R639). -/
def jsrTime (ea : EA) : Cost := fun c => controlTime c.address.jsr ea

/-- LEA (R639). -/
def leaTime (ea : EA) : Cost := fun c => controlTime c.address.lea ea

/-- PEA (R639). -/
def peaTime (ea : EA) : Cost := fun c => controlTime c.address.pea ea

/-- The row of MOVEM (R640). -/
def movemRow (toRegs : Bool) (sz : Size) (c : MovemCosts) : MovemCost :=
  match toRegs, sz with
  | true, .l => c.toRegsL
  | true, _ => c.toRegsW
  | false, .l => c.toMemL
  | false, _ => c.toMemW

/-- MOVEM (R640) of `n` registers. -/
def movemTime (toRegs : Bool) (sz : Size) (ea : EA) (n : Nat) : Cost := fun c =>
  let row := movemRow toRegs sz c.movem
  (match ea with
    | .postInc _ | .preDec _ => row.stepped
    | _ => controlTime row.control ea) + row.perReg * n

/-- The number of 1 bits of a word. -/
def onesOf (w : Word) : Nat := (List.range 16).countP fun i => w.getLsbD i

/-- MULU (R645). -/
def muluTime (s : Word) (ea : EA) : Cost :=
  withEa (fun c => c.multiply.mulu + c.multiply.muluPerOne * onesOf s) ea .w

/-- The 01 and 10 pairs of `s : 0` (R646). -/
def pairsOf (w : Word) : Nat :=
  let t : BitVec 17 := w ++ 0#1
  (List.range 16).countP fun i => t.getLsbD i != t.getLsbD (i + 1)

/-- MULS (R646). -/
def mulsTime (s : Word) (ea : EA) : Cost :=
  withEa (fun c => c.multiply.muls + c.multiply.mulsPerPair * pairsOf s) ea .w

/-- DIVU and DIVS with a nonzero divisor (R647, R648, log 4). -/
def divTime (signed : Bool) (dividend : Long) (divisor : Word) (ea : EA) : Cost :=
  withEa (fun _ => Config.divCycles signed dividend divisor) ea .w

/-- A zero divide (R643). -/
def zeroDivideTime (ea : EA) : Cost := withEa (·.exception.zeroDivide) ea .w

/-- CHK that traps (R643). -/
def chkTrapTime (ea : EA) : Cost := withEa (·.exception.chk) ea .w

/-- CHK that does not (R642). -/
def chkTime (ea : EA) : Cost := withEa (·.misc.chk) ea .w

/-- ADDX, SUBX (R641). -/
def extendedTime (sz : Size) (mem : Bool) : Cost := fun c =>
  sizedTime sz (if mem then c.extended.addxMem else c.extended.addxReg)

/-- CMPM (R641). -/
def cmpmTime (sz : Size) : Cost := fun c => sizedTime sz c.extended.cmpm

/-- MOVE from SR (R642). -/
def moveFromSrTime (ea : EA) : Cost := byteTime (·.misc.moveFromSr) .w ea

/-- MOVE to CCR (R642). -/
def moveToCcrTime (ea : EA) : Cost := withEa (·.misc.moveToCcr) ea .w

/-- MOVE to SR (R642). -/
def moveToSrTime (ea : EA) : Cost := withEa (·.misc.moveToSr) ea .w

end Sys2Proof.Machine
end

