-- ==== Sys2Proof/Machine/Arithmetic.lean ====
section
/-!
DEFINITION. Integer arithmetic (41_integer_arithmetic.md, R251-R279): one meaning per instruction,
over the operations of R250.
-/

namespace Sys2Proof.Machine

/-- `<ea>,Dn` (R251, R258): the register is read after the source. -/
def toRegBody (op : Size → Long → Long → Exec Long) (sz : Size) (x : Reg) (ea : EA) (cost : Cost) :
    Exec Done := do
  let s ← source sz ea
  let d ← loadD sz x
  let r ← op sz d s
  storeD sz x r
  pure (.completed cost)

/-- `Dn,<ea>` (R252, R259): a read-modify-write of memory. -/
def toMemBody (op : Size → Long → Long → Exec Long) (sz : Size) (x : Reg) (ea : EA) (cost : Cost) :
    Exec Done := do
  modify sz ea fun d => do
    let s ← loadD sz x
    op sz d s
  pure (.completed cost)

/-- `#imm,<ea>` (R254, R261): the immediate comes first. -/
def immBody (op : Size → Long → Long → Exec Long) (sz : Size) (ea : EA) (cost : Cost) :
    Exec Done := do
  let s ← immediate sz
  modify sz ea fun d => op sz d s
  pure (.completed cost)

/-- `<ea>,An` (R253, R260): all 32 bits, no flags. -/
def toAddrBody (op : Long → Long → Long) (sz : Size) (x : Reg) (ea : EA) : Exec Done := do
  let s ← source sz ea
  let a ← loadA x
  storeA x (op a (sext sz s))
  pure (.completed (toAddrTime sz ea))

/-- ADDQ and SUBQ (R255, R262): an address register takes all 32 bits and no flags. -/
def quickBody (op : Size → Long → Long → Exec Long) (addrOp : Long → Long → Long) (q : Reg)
    (sz : Size) (ea : EA) : Exec Done := do
  match ea with
  | .areg n => do
    let a ← loadA n
    storeA n (addrOp a (quickValue q))
  | _ => modify sz ea fun d => op sz d (quickValue q)
  pure (.completed (quickTime sz ea))

/-- `Dy,Dx` of ADDX and SUBX (R256, R263). -/
def extendedRegBody (op : Size → Long → Long → Exec Long) (sz : Size) (x y : Reg) : Exec Done := do
  let s ← loadD sz y
  let d ← loadD sz x
  let r ← op sz d s
  storeD sz x r
  pure (.completed (extendedTime sz false))

/-- Predecrement, then read (R257, R264, R402). -/
def readPreDec (sz : Size) (n : Reg) : Exec Long := do
  update fun s => s.writeA n (s.readA n - stepOf n sz)
  let a ← loadA n
  memRead .instruction sz a

/-- Read, then postincrement (R268). -/
def readPostInc (sz : Size) (n : Reg) : Exec Long := do
  let a ← loadA n
  let v ← memRead .instruction sz a
  update fun s => s.writeA n (s.readA n + stepOf n sz)
  pure v

/-- `-(Ay),-(Ax)` of ADDX and SUBX (R257, R264). -/
def extendedMemBody (op : Size → Long → Long → Exec Long) (sz : Size) (x y : Reg) : Exec Done := do
  let s ← readPreDec sz y
  let d ← readPreDec sz x
  let r ← op sz d s
  let a ← loadA x
  memWrite .instruction sz a r
  pure (.completed (extendedTime sz true))

/-! ### Addition (R251-R257) -/

/-- ADD-EA2D.B (R251). -/
def execAddEaDB (x : Reg) (ea : EA) (s : State) : Host.Outcome State Fault Refusal :=
  perform (toRegBody addOp .b x ea (toRegTime .b ea)) s

/-- ADD-EA2D.WL (R251). -/
def execAddEaDWL (x : Reg) (sz : Size) (ea : EA) (s : State) : Host.Outcome State Fault Refusal :=
  perform (toRegBody addOp sz x ea (toRegTime sz ea)) s

/-- ADD-D2EA (R252). -/
def execAddDEa (x : Reg) (sz : Size) (ea : EA) (s : State) : Host.Outcome State Fault Refusal :=
  perform (toMemBody addOp sz x ea (toMemTime sz ea)) s

/-- ADDA.W (R253). -/
def execAddaW (x : Reg) (ea : EA) (s : State) : Host.Outcome State Fault Refusal :=
  perform (toAddrBody (· + ·) .w x ea) s

/-- ADDA.L (R253). -/
def execAddaL (x : Reg) (ea : EA) (s : State) : Host.Outcome State Fault Refusal :=
  perform (toAddrBody (· + ·) .l x ea) s

/-- ADDI (R254). -/
def execAddi (sz : Size) (ea : EA) (s : State) : Host.Outcome State Fault Refusal :=
  perform (immBody addOp sz ea (addiTime sz ea)) s

/-- ADDQ.B (R255). -/
def execAddqB (q : Reg) (ea : EA) (s : State) : Host.Outcome State Fault Refusal :=
  perform (quickBody addOp (· + ·) q .b ea) s

/-- ADDQ.WL (R255). -/
def execAddqWL (q : Reg) (sz : Size) (ea : EA) (s : State) : Host.Outcome State Fault Refusal :=
  perform (quickBody addOp (· + ·) q sz ea) s

/-- ADDX-R (R256). -/
def execAddxR (x : Reg) (sz : Size) (y : Reg) (s : State) : Host.Outcome State Fault Refusal :=
  perform (extendedRegBody addXOp sz x y) s

/-- ADDX-M (R257). -/
def execAddxM (x : Reg) (sz : Size) (y : Reg) (s : State) : Host.Outcome State Fault Refusal :=
  perform (extendedMemBody addXOp sz x y) s

/-! ### Subtraction (R258-R264) -/

/-- SUB-EA2D.B (R258). -/
def execSubEaDB (x : Reg) (ea : EA) (s : State) : Host.Outcome State Fault Refusal :=
  perform (toRegBody subOp .b x ea (toRegTime .b ea)) s

/-- SUB-EA2D.WL (R258). -/
def execSubEaDWL (x : Reg) (sz : Size) (ea : EA) (s : State) : Host.Outcome State Fault Refusal :=
  perform (toRegBody subOp sz x ea (toRegTime sz ea)) s

/-- SUB-D2EA (R259). -/
def execSubDEa (x : Reg) (sz : Size) (ea : EA) (s : State) : Host.Outcome State Fault Refusal :=
  perform (toMemBody subOp sz x ea (toMemTime sz ea)) s

/-- SUBA.W (R260). -/
def execSubaW (x : Reg) (ea : EA) (s : State) : Host.Outcome State Fault Refusal :=
  perform (toAddrBody (· - ·) .w x ea) s

/-- SUBA.L (R260). -/
def execSubaL (x : Reg) (ea : EA) (s : State) : Host.Outcome State Fault Refusal :=
  perform (toAddrBody (· - ·) .l x ea) s

/-- SUBI (R261). -/
def execSubi (sz : Size) (ea : EA) (s : State) : Host.Outcome State Fault Refusal :=
  perform (immBody subOp sz ea (addiTime sz ea)) s

/-- SUBQ.B (R262). -/
def execSubqB (q : Reg) (ea : EA) (s : State) : Host.Outcome State Fault Refusal :=
  perform (quickBody subOp (· - ·) q .b ea) s

/-- SUBQ.WL (R262). -/
def execSubqWL (q : Reg) (sz : Size) (ea : EA) (s : State) : Host.Outcome State Fault Refusal :=
  perform (quickBody subOp (· - ·) q sz ea) s

/-- SUBX-R (R263). -/
def execSubxR (x : Reg) (sz : Size) (y : Reg) (s : State) : Host.Outcome State Fault Refusal :=
  perform (extendedRegBody subXOp sz x y) s

/-- SUBX-M (R264). -/
def execSubxM (x : Reg) (sz : Size) (y : Reg) (s : State) : Host.Outcome State Fault Refusal :=
  perform (extendedMemBody subXOp sz x y) s

/-! ### Compare and test (R265-R269) -/

/-- CMP (R265). -/
def cmpBody (sz : Size) (x : Reg) (ea : EA) : Exec Done := do
  let s ← source sz ea
  let d ← loadD sz x
  cmpOp sz d s
  pure (.completed (cmpTime sz ea))

/-- CMP.B (R265). -/
def execCmpB (x : Reg) (ea : EA) (s : State) : Host.Outcome State Fault Refusal :=
  perform (cmpBody .b x ea) s

/-- CMP.WL (R265). -/
def execCmpWL (x : Reg) (sz : Size) (ea : EA) (s : State) : Host.Outcome State Fault Refusal :=
  perform (cmpBody sz x ea) s

/-- CMPA (R266): a 32-bit comparison. -/
def cmpaBody (sz : Size) (x : Reg) (ea : EA) : Exec Done := do
  let s ← source sz ea
  let a ← loadA x
  cmpOp .l a (sext sz s)
  pure (.completed (cmpaTime sz ea))

/-- CMPA.W (R266). -/
def execCmpaW (x : Reg) (ea : EA) (s : State) : Host.Outcome State Fault Refusal :=
  perform (cmpaBody .w x ea) s

/-- CMPA.L (R266). -/
def execCmpaL (x : Reg) (ea : EA) (s : State) : Host.Outcome State Fault Refusal :=
  perform (cmpaBody .l x ea) s

/-- CMPI (R267). -/
def execCmpi (sz : Size) (ea : EA) (s : State) : Host.Outcome State Fault Refusal :=
  perform (do
    let i ← immediate sz
    let d ← source sz ea
    cmpOp sz d i
    pure (.completed (cmpiTime sz ea))) s

/-- CMPM (R268). -/
def execCmpm (x : Reg) (sz : Size) (y : Reg) (s : State) : Host.Outcome State Fault Refusal :=
  perform (do
    let src ← readPostInc sz y
    let d ← readPostInc sz x
    cmpOp sz d src
    pure (.completed (cmpmTime sz))) s

/-- TST (R269). -/
def execTst (sz : Size) (ea : EA) (s : State) : Host.Outcome State Fault Refusal :=
  perform (do
    let v ← source sz ea
    setLogic sz v
    pure (.completed (tstTime sz ea))) s

/-! ### Negate, clear, extend (R270-R274) -/

/-- NEG (R270). -/
def execNeg (sz : Size) (ea : EA) (s : State) : Host.Outcome State Fault Refusal :=
  perform (do
    modify sz ea fun d => subOp sz 0 d
    pure (.completed (unaryTime sz ea))) s

/-- NEGX (R271). -/
def execNegx (sz : Size) (ea : EA) (s : State) : Host.Outcome State Fault Refusal :=
  perform (do
    modify sz ea fun d => subXOp sz 0 d
    pure (.completed (unaryTime sz ea))) s

/-- CLR (R272). -/
def execClr (sz : Size) (ea : EA) (s : State) : Host.Outcome State Fault Refusal :=
  perform (do
    let loc ← resolveEa sz ea
    dummyRead sz loc
    writeLoc sz loc 0
    setLogic sz 0
    pure (.completed (unaryTime sz ea))) s

/-- EXT.W (R273). -/
def execExtW (y : Reg) (s : State) : Host.Outcome State Fault Refusal :=
  perform (do
    let d ← loadD .b y
    let v := trunc .w (sext .b d)
    storeD .w y v
    setLogic .w v
    pure (.completed (·.misc.ext))) s

/-- EXT.L (R274). -/
def execExtL (y : Reg) (s : State) : Host.Outcome State Fault Refusal :=
  perform (do
    let d ← loadD .w y
    let v := sext .w d
    storeD .l y v
    setLogic .l v
    pure (.completed (·.misc.ext))) s

/-! ### Multiply and divide (R275-R278) -/

/-- The unsigned product of two words (R275). -/
def muluValue (d s : Long) : Long := trunc .w d * trunc .w s

/-- The signed product of two words (R276). -/
def mulsValue (d s : Long) : Long := BitVec.ofInt 32 (signedOf .w d * signedOf .w s)

/-- MULU (R275). -/
def execMulu (x : Reg) (ea : EA) (s : State) : Host.Outcome State Fault Refusal :=
  perform (do
    let src ← source .w ea
    let d ← loadD .w x
    storeD .l x (muluValue d src)
    setLogic .l (muluValue d src)
    pure (.completed (muluTime (src.setWidth 16) ea))) s

/-- MULS (R276). -/
def execMuls (x : Reg) (ea : EA) (s : State) : Host.Outcome State Fault Refusal :=
  perform (do
    let src ← source .w ea
    let d ← loadD .w x
    storeD .l x (mulsValue d src)
    setLogic .l (mulsValue d src)
    pure (.completed (mulsTime (src.setWidth 16) ea))) s

/-- The zero divide of R277 and R278: N, Z and V are free, C = 0 (log 2); vector 5. -/
def zeroDivide (ea : EA) : Exec Done := do
  let n ← drawBit
  let z ← drawBit
  let v ← drawBit
  setFlagsFrom fun old => { x := old.x, n := n, z := z, v := v, c := false }
  pure (.group2 5 (zeroDivideTime ea))

/-- The divide overflow of R277 and R278: V = 1, C = 0, N and Z are free (log 2). -/
def divideOverflow : Exec Unit := do
  let n ← drawBit
  let z ← drawBit
  setFlagsFrom fun old => { x := old.x, n := n, z := z, v := true, c := false }

/-- The quotient in the low word, the remainder in the high word, and the flags of R277 and R278,
or the overflow. -/
def divideResult (x : Reg) (result : Option (Word × Word)) : Exec Unit :=
  match result with
  | none => divideOverflow
  | some (rem, q) => do
    storeD .l x (rem ++ q)
    setLogic .w (q.setWidth 32)

/-- Quotient and remainder of R277; none when the quotient exceeds 0xFFFF. -/
def divuResult (dividend : Long) (divisor : Word) : Option (Word × Word) :=
  let q := dividend.toNat / divisor.toNat
  if 0xFFFF < q then none
  else some (BitVec.ofNat 16 (dividend.toNat % divisor.toNat), BitVec.ofNat 16 q)

/-- Quotient, truncated toward zero, and remainder of R278; none when the quotient is no signed
word. -/
def divsResult (dividend : Long) (divisor : Word) : Option (Word × Word) :=
  let q := dividend.toInt.tdiv divisor.toInt
  if q < -32768 ∨ 32767 < q then none
  else some (BitVec.ofInt 16 (dividend.toInt - q * divisor.toInt), BitVec.ofInt 16 q)

/-- DIVU (R277). -/
def execDivu (x : Reg) (ea : EA) (s : State) : Host.Outcome State Fault Refusal :=
  perform (do
    let src ← source .w ea
    let divisor : Word := src.setWidth 16
    if divisor = 0 then zeroDivide ea
    else do
      let d ← loadD .l x
      divideResult x (divuResult d divisor)
      pure (.completed (divTime false d divisor ea))) s

/-- DIVS (R278). -/
def execDivs (x : Reg) (ea : EA) (s : State) : Host.Outcome State Fault Refusal :=
  perform (do
    let src ← source .w ea
    let divisor : Word := src.setWidth 16
    if divisor = 0 then zeroDivide ea
    else do
      let d ← loadD .l x
      divideResult x (divsResult d divisor)
      pure (.completed (divTime true d divisor ea))) s

/-! ### Bounds check (R279) -/

/-- CHK (R279): Z, V and C are free; N is 1 below zero, 0 above the bound, free inside (log 2). -/
def execChk (x : Reg) (ea : EA) (s : State) : Host.Outcome State Fault Refusal :=
  perform (do
    let src ← source .w ea
    let d ← loadD .w x
    let z ← drawBit
    let v ← drawBit
    let c ← drawBit
    if signedOf .w d < 0 then do
      setFlagsFrom fun old => { x := old.x, n := true, z := z, v := v, c := c }
      pure (.group2 6 (chkTrapTime ea))
    else if signedOf .w src < signedOf .w d then do
      setFlagsFrom fun old => { x := old.x, n := false, z := z, v := v, c := c }
      pure (.group2 6 (chkTrapTime ea))
    else do
      let n ← drawBit
      setFlagsFrom fun old => { x := old.x, n := n, z := z, v := v, c := c }
      pure (.completed (chkTime ea))) s

end Sys2Proof.Machine
end

