-- ==== Sys2Proof/Machine/Bcd.lean ====
section
/-!
DEFINITION. Decimal instructions (45_bcd.md, R400-R407).
-/

namespace Sys2Proof.Machine

/-- The result byte of `Dec(op, s, d, X)`, with its flags written (R400, R401). -/
def bcdOp (op : BcdOp) (d s : Long) : Exec Long := do
  let x ← look State.flagX
  setFlagsFrom fun old => bcdFlags old op (s.setWidth 8) (d.setWidth 8)
  pure ((bcdResult op (s.setWidth 8) (d.setWidth 8) x).1.setWidth 32)

/-- `Dy,Dx` (R401, R403). -/
def bcdRegBody (op : BcdOp) (x y : Reg) : Exec Done := do
  let s ← loadD .b y
  let d ← loadD .b x
  let r ← bcdOp op d s
  storeD .b x r
  pure (.completed (·.extended.bcdReg))

/-- `-(Ay),-(Ax)` (R402, R404). -/
def bcdMemBody (op : BcdOp) (x y : Reg) : Exec Done := do
  let s ← readPreDec .b y
  let d ← readPreDec .b x
  let r ← bcdOp op d s
  let a ← loadA x
  memWrite .instruction .b a r
  pure (.completed (·.extended.bcdMem))

/-- ABCD-R (R401). -/
def execAbcdR (x y : Reg) (s : State) : Host.Outcome State Fault Refusal :=
  perform (bcdRegBody .abcd x y) s

/-- ABCD-M (R402). -/
def execAbcdM (x y : Reg) (s : State) : Host.Outcome State Fault Refusal :=
  perform (bcdMemBody .abcd x y) s

/-- SBCD-R (R403). -/
def execSbcdR (x y : Reg) (s : State) : Host.Outcome State Fault Refusal :=
  perform (bcdRegBody .sbcd x y) s

/-- SBCD-M (R404). -/
def execSbcdM (x y : Reg) (s : State) : Host.Outcome State Fault Refusal :=
  perform (bcdMemBody .sbcd x y) s

/-- NBCD (R405): the source is 0. -/
def execNbcd (ea : EA) (s : State) : Host.Outcome State Fault Refusal :=
  perform (do
    modify .b ea fun d => bcdOp .nbcd d 0
    pure (.completed (nbcdTime ea))) s

end Sys2Proof.Machine
end

