-- ==== Sys2Proof/Machine/Bit.lean ====
section
/-!
DEFINITION. Bit operations and TAS (44_bit_manipulation.md, R380-R390).
-/

namespace Sys2Proof.Machine

/-- The three changes of a bit, as functions of the operand and the bit number. -/
abbrev BitOp := Long → Nat → Long

/-- BCHG (R383). -/
def changeBit : BitOp := fun v n => v ^^^ (1#32 <<< n)

/-- BCLR (R385). -/
def clearBit : BitOp := fun v n => v &&& ~~~(1#32 <<< n)

/-- BSET (R387). -/
def setBit : BitOp := fun v n => v ||| (1#32 <<< n)

/-- The bit number of a dynamic form: `D[x]` (R380). -/
def dynamicBit (x : Reg) : Exec Long := loadD .l x

/-- The bit number of a static form: the low byte of a word (R380). -/
def staticBit : Exec Long := immediate .b

/-- BTST (R381, R382). -/
def bitTestBody (bitno : Exec Long) (ea : EA) (cost : Cost) : Exec Done := do
  let b ← bitno
  let v ← source (bitSize ea) ea
  setZFromBit v (bitIndex (bitSize ea) b)
  pure (.completed cost)

/-- BCHG, BCLR, BSET (R383-R388). -/
def bitChangeBody (op : BitOp) (bitno : Exec Long) (ea : EA) (cost : Cost) : Exec Done := do
  let b ← bitno
  modify (bitSize ea) ea fun v => do
    setZFromBit v (bitIndex (bitSize ea) b)
    pure (op v (bitIndex (bitSize ea) b))
  pure (.completed cost)

/-- BTST-D (R381). -/
def execBtstD (x : Reg) (ea : EA) (s : State) : Host.Outcome State Fault Refusal :=
  perform (bitTestBody (dynamicBit x) ea (bitTime (·.btstD) ea)) s

/-- BTST-S (R382). -/
def execBtstS (ea : EA) (s : State) : Host.Outcome State Fault Refusal :=
  perform (bitTestBody staticBit ea (bitTime (·.btstS) ea)) s

/-- BCHG-D (R383). -/
def execBchgD (x : Reg) (ea : EA) (s : State) : Host.Outcome State Fault Refusal :=
  perform (bitChangeBody changeBit (dynamicBit x) ea (bitTime (·.bchgD) ea)) s

/-- BCHG-S (R384). -/
def execBchgS (ea : EA) (s : State) : Host.Outcome State Fault Refusal :=
  perform (bitChangeBody changeBit staticBit ea (bitTime (·.bchgS) ea)) s

/-- BCLR-D (R385). -/
def execBclrD (x : Reg) (ea : EA) (s : State) : Host.Outcome State Fault Refusal :=
  perform (bitChangeBody clearBit (dynamicBit x) ea (bitTime (·.bclrD) ea)) s

/-- BCLR-S (R386). -/
def execBclrS (ea : EA) (s : State) : Host.Outcome State Fault Refusal :=
  perform (bitChangeBody clearBit staticBit ea (bitTime (·.bclrS) ea)) s

/-- BSET-D (R387). -/
def execBsetD (x : Reg) (ea : EA) (s : State) : Host.Outcome State Fault Refusal :=
  perform (bitChangeBody setBit (dynamicBit x) ea (bitTime (·.bsetD) ea)) s

/-- BSET-S (R388). -/
def execBsetS (ea : EA) (s : State) : Host.Outcome State Fault Refusal :=
  perform (bitChangeBody setBit staticBit ea (bitTime (·.bsetS) ea)) s

/-- TAS (R390): read, flags, then for memory the callback that permits the write (log 21). -/
def execTas (ea : EA) (s : State) : Host.Outcome State Fault Refusal :=
  perform (do
    let loc ← resolveEa .b ea
    let v ← readLoc .b loc
    setLogic .b v
    match loc with
    | .dreg n => storeD .b n (v ||| 0x80)
    | _ => do
      let h ← look State.handlers
      let allow ← callHandler h.tasInstr .tasInstr 1
      if allow ≠ 0 then writeLoc .b loc (v ||| 0x80)
      else pure ()
    pure (.completed (tasTime ea))) s

end Sys2Proof.Machine
end

