-- ==== Sys2Proof/Machine/Control.lean ====
section
/-!
DEFINITION. Program control (46_program_control.md, R420-R431). A branch base is the address after
the opcode word, which is pc when the meaning starts (R420).
-/

namespace Sys2Proof.Machine

/-- The condition of an instruction, on the flags before it. -/
def testCond (cond : Cond) : Exec Bool := look fun s => condHolds s.flags cond

/-- Bcc and BRA (R421, R422): the displacement word is fetched whether or not the branch is taken,
which the cost depends on. -/
def branchBody (cost : Bool → Cost) (cond : Cond) (d8 : Byte) : Exec Done := do
  let base ← look State.pc
  let disp ← branchDisp d8
  let taken ← testCond cond
  if taken then update fun s => s.setPc (base + disp)
  else pure ()
  pure (.completed (cost taken))

/-- Bcc (R421). -/
def execBcc (cond : Cond) (d8 : Byte) (s : State) : Host.Outcome State Fault Refusal :=
  perform (branchBody (bccTime · d8) cond d8) s

/-- BRA (R422). -/
def execBra (d8 : Byte) (s : State) : Host.Outcome State Fault Refusal :=
  perform (branchBody (fun _ => branchTime (·.bra) d8) .t d8) s

/-- Push the return address and go to a target; the pushed bytes are checked against the target's
first two words (R130, R423, R427). -/
def callTo (target : Long) : Exec Unit := do
  let ret ← look State.pc
  push .instruction .l ret
  let sp ← look State.activeSp
  hazardCheck target sp 4
  update fun s => s.setPc target

/-- BSR (R423). -/
def execBsr (d8 : Byte) (s : State) : Host.Outcome State Fault Refusal :=
  perform (do
    let base ← look State.pc
    let disp ← branchDisp d8
    callTo (base + disp)
    pure (.completed (branchTime (·.bsr) d8))) s

/-- DBcc (R424): the counter is the low word. -/
def execDbcc (cond : Cond) (y : Reg) (s : State) : Host.Outcome State Fault Refusal :=
  perform (do
    let base ← look State.pc
    let disp ← fetchDisp
    let stay ← testCond cond
    if stay then pure (.completed (·.branch.dbccTrue))
    else do
      let d ← loadD .w y
      let c := trunc .w (d - 1)
      storeD .w y c
      if c ≠ 0xFFFF then do
        update fun s => s.setPc (base + disp)
        pure (.completed (·.branch.dbccTaken))
      else pure (.completed (·.branch.dbccExpired))) s

/-- Scc (R425). -/
def execScc (cond : Cond) (ea : EA) (s : State) : Host.Outcome State Fault Refusal :=
  perform (do
    let loc ← resolveEa .b ea
    dummyRead .b loc
    let taken ← testCond cond
    writeLoc .b loc (if taken then 0xFF else 0x00)
    pure (.completed (sccTime taken ea))) s

/-- JMP (R426). -/
def execJmp (ea : EA) (s : State) : Host.Outcome State Fault Refusal :=
  perform (do
    let loc ← resolveEa .l ea
    let a ← addrOf loc
    update fun s => s.setPc a
    pure (.completed (jmpTime ea))) s

/-- JSR (R427): the target is computed before A7 changes. -/
def execJsr (ea : EA) (s : State) : Host.Outcome State Fault Refusal :=
  perform (do
    let loc ← resolveEa .l ea
    let a ← addrOf loc
    callTo a
    pure (.completed (jsrTime ea))) s

/-- RTS (R428). -/
def execRts (s : State) : Host.Outcome State Fault Refusal :=
  perform (do
    let a ← pop .instruction .l
    update fun s => s.setPc a
    pure (.completed (·.misc.rts))) s

/-- RTR (R429): `SR[4:0]` from the popped word, then pc. -/
def execRtr (s : State) : Host.Outcome State Fault Refusal :=
  perform (do
    let w ← pop .instruction .w
    update fun s => s.setCcr (w.setWidth 5)
    let a ← pop .instruction .l
    update fun s => s.setPc a
    pure (.completed (·.misc.rtr))) s

/-- NOP (R430). -/
def execNop (s : State) : Host.Outcome State Fault Refusal :=
  perform (pure (.completed (·.misc.nop))) s

/-- TRAPV (R431): vector 7 when V = 1. -/
def execTrapv (s : State) : Host.Outcome State Fault Refusal :=
  perform (do
    let v ← look State.flagV
    if v then pure (.group2 7 (·.exception.trapv))
    else pure (.completed (·.misc.trapv))) s

end Sys2Proof.Machine
end

