-- ==== Sys2Proof/Machine/DataMovement.lean ====
section
/-!
DEFINITION. Data movement (40_data_movement.md, R201-R213): one meaning per instruction, over
shared bodies.
-/

namespace Sys2Proof.Machine

/-- MOVE (R201). -/
def moveBody (sz : Size) (src dst : EA) : Exec Done := do
  let v ← source sz src
  let loc ← resolveEa sz dst
  writeLoc sz loc v
  setLogic sz v
  pure (.completed (moveTime sz src dst))

/-- MOVE.B (R201). -/
def execMoveB (src dst : EA) (s : State) : Host.Outcome State Fault Refusal :=
  perform (moveBody .b src dst) s

/-- MOVE.W (R201). -/
def execMoveW (src dst : EA) (s : State) : Host.Outcome State Fault Refusal :=
  perform (moveBody .w src dst) s

/-- MOVE.L (R201). -/
def execMoveL (src dst : EA) (s : State) : Host.Outcome State Fault Refusal :=
  perform (moveBody .l src dst) s

/-- MOVEA (R202): a word is sign-extended; no flags. -/
def moveaBody (sz : Size) (src : EA) (x : Reg) : Exec Done := do
  let v ← source sz src
  storeA x (sext sz v)
  pure (.completed (moveTime sz src (.areg x)))

/-- MOVEA.W (R202). -/
def execMoveaW (src : EA) (x : Reg) (s : State) : Host.Outcome State Fault Refusal :=
  perform (moveaBody .w src x) s

/-- MOVEA.L (R202). -/
def execMoveaL (src : EA) (x : Reg) (s : State) : Host.Outcome State Fault Refusal :=
  perform (moveaBody .l src x) s

/-- MOVEQ (R203). -/
def execMoveq (x : Reg) (d8 : Byte) (s : State) : Host.Outcome State Fault Refusal :=
  perform (do
    let v := d8.signExtend 32
    storeD .l x v
    setLogic .l v
    pure (.completed (·.immediate.moveq))) s

/-! ### MOVEM (R204, R205) -/

/-- The bit positions of a register mask, in the order of the loops of R204 and R205. -/
def maskOrder : List (Fin 16) := [0, 1, 2, 3, 4, 5, 6, 7, 8, 9, 10, 11, 12, 13, 14, 15]

/-- The number of registers in a mask (R640). -/
def maskCount (mask : Word) : Nat := onesOf mask

/-- The predecrement loop of R204: mask bit 0 is A7, bit 15 is D0. -/
def storeDown (mask : Word) (sz : Size) : List (Fin 16) → Long → Exec Long
  | [], a => pure a
  | i :: is, a =>
    if mask.getLsbD i.val then do
      let below := a - BitVec.ofNat 32 (bytesOf sz)
      let v ← look fun s => trunc sz (s.readR i.rev)
      memWrite .instruction sz below v
      storeDown mask sz is below
    else storeDown mask sz is a

/-- The control-alterable loop of R204: mask bit 0 is D0, bit 15 is A7. -/
def storeUp (mask : Word) (sz : Size) : List (Fin 16) → Long → Exec Long
  | [], a => pure a
  | i :: is, a =>
    if mask.getLsbD i.val then do
      let v ← look fun s => trunc sz (s.readR i)
      memWrite .instruction sz a v
      storeUp mask sz is (a + BitVec.ofNat 32 (bytesOf sz))
    else storeUp mask sz is a

/-- The loop of R205: a word is sign-extended into the whole register. -/
def loadUp (mask : Word) (sz : Size) (loc : Loc) : List (Fin 16) → Long → Exec Long
  | [], a => pure a
  | i :: is, a =>
    if mask.getLsbD i.val then do
      let v ← readAtLoc loc sz a
      update fun s => s.writeR i (sext sz v)
      loadUp mask sz loc is (a + BitVec.ofNat 32 (bytesOf sz))
    else loadUp mask sz loc is a

/-- MOVEM registers to memory (R204). `-(An)` does not go through ResolveEA: `A[r]` is written
once, at the end. -/
def movemStoreBody (sz : Size) (ea : EA) : Exec Done := do
  let mask ← fetchWord
  match ea with
  | .preDec r => do
    let start ← loadA r
    let a ← storeDown mask sz maskOrder start
    storeA r a
  | _ => do
    let loc ← resolveEa sz ea
    let start ← addrOf loc
    let _ ← storeUp mask sz maskOrder start
    pure ()
  pure (.completed (movemTime false sz ea (maskCount mask)))

/-- `if DUMMY_READS: ReadLoc(loc, a, 2)`, after the last transfer (R205). For a PC-relative source
R125 has MemRead where this is MemReadPC; no rule settles the two, and taking R205 is the model's
choice (log 26). -/
def movemDummyRead (loc : Loc) (a : Long) : Exec Unit := do
  let cfg ← look State.cfg
  if cfg.dummyReads then do
    let _ ← readAtLoc loc .w a
    pure ()
  else pure ()

/-- MOVEM memory to registers (R205). `(An)+` does not go through ResolveEA: the final address is
written to `A[r]` at the end, over a value loaded into it. -/
def movemLoadBody (sz : Size) (ea : EA) : Exec Done := do
  let mask ← fetchWord
  match ea with
  | .postInc r => do
    let start ← loadA r
    let a ← loadUp mask sz (.mem start) maskOrder start
    movemDummyRead (.mem start) a
    storeA r a
  | _ => do
    let loc ← resolveEa sz ea
    let start ← addrOf loc
    let a ← loadUp mask sz loc maskOrder start
    movemDummyRead loc a
  pure (.completed (movemTime true sz ea (maskCount mask)))

/-- MOVEM.W-R2M (R204). -/
def execMovemWR2M (ea : EA) (s : State) : Host.Outcome State Fault Refusal :=
  perform (movemStoreBody .w ea) s

/-- MOVEM.L-R2M (R204). -/
def execMovemLR2M (ea : EA) (s : State) : Host.Outcome State Fault Refusal :=
  perform (movemStoreBody .l ea) s

/-- MOVEM.W-M2R (R205). -/
def execMovemWM2R (ea : EA) (s : State) : Host.Outcome State Fault Refusal :=
  perform (movemLoadBody .w ea) s

/-- MOVEM.L-M2R (R205). -/
def execMovemLM2R (ea : EA) (s : State) : Host.Outcome State Fault Refusal :=
  perform (movemLoadBody .l ea) s

/-! ### MOVEP (R206, R207) -/

/-- The address of a MOVEP: `A[y] + sext_32(FetchWord())`. -/
def movepAddr (y : Reg) : Exec Long := do
  let d ← fetchDisp
  let a ← loadA y
  pure (a + d)

/-- Bytes at alternate addresses, high byte first (R206). -/
def readAlternate : Nat → Long → Long → Exec Long
  | 0, _, acc => pure acc
  | k + 1, a, acc => do
    let v ← memRead .instruction .b a
    readAlternate k (a + 2) (acc <<< 8 ||| v)

/-- Bytes to alternate addresses, high byte first (R207). -/
def writeAlternate : Nat → Long → Long → Exec Unit
  | 0, _, _ => pure ()
  | k + 1, a, v => do
    memWrite .instruction .b a ((v >>> (8 * k)) &&& 0xFF)
    writeAlternate k (a + 2) v

/-- MOVEP.W-M2R (R206). -/
def execMovepWM2R (x y : Reg) (s : State) : Host.Outcome State Fault Refusal :=
  perform (do
    let a ← movepAddr y
    let v ← readAlternate 2 a 0
    storeD .w x v
    pure (.completed (·.misc.movepW))) s

/-- MOVEP.L-M2R (R206). -/
def execMovepLM2R (x y : Reg) (s : State) : Host.Outcome State Fault Refusal :=
  perform (do
    let a ← movepAddr y
    let v ← readAlternate 4 a 0
    storeD .l x v
    pure (.completed (·.misc.movepL))) s

/-- MOVEP.W-R2M (R207). -/
def execMovepWR2M (x y : Reg) (s : State) : Host.Outcome State Fault Refusal :=
  perform (do
    let a ← movepAddr y
    let v ← loadD .l x
    writeAlternate 2 a v
    pure (.completed (·.misc.movepW))) s

/-- MOVEP.L-R2M (R207). -/
def execMovepLR2M (x y : Reg) (s : State) : Host.Outcome State Fault Refusal :=
  perform (do
    let a ← movepAddr y
    let v ← loadD .l x
    writeAlternate 4 a v
    pure (.completed (·.misc.movepL))) s

/-! ### Addresses, exchanges and stack frames (R208-R213) -/

/-- LEA (R208): no operand is read. -/
def execLea (x : Reg) (ea : EA) (s : State) : Host.Outcome State Fault Refusal :=
  perform (do
    let loc ← resolveEa .l ea
    let a ← addrOf loc
    storeA x a
    pure (.completed (leaTime ea))) s

/-- PEA (R209): the address is computed before A7 goes down. -/
def execPea (ea : EA) (s : State) : Host.Outcome State Fault Refusal :=
  perform (do
    let loc ← resolveEa .l ea
    let a ← addrOf loc
    push .instruction .l a
    pure (.completed (peaTime ea))) s

/-- EXG Dx,Dy (R210). -/
def execExgDD (x y : Reg) (s : State) : Host.Outcome State Fault Refusal :=
  perform (do
    let t ← loadD .l x
    let u ← loadD .l y
    storeD .l x u
    storeD .l y t
    pure (.completed (·.misc.exg))) s

/-- EXG Ax,Ay (R210). -/
def execExgAA (x y : Reg) (s : State) : Host.Outcome State Fault Refusal :=
  perform (do
    let t ← loadA x
    let u ← loadA y
    storeA x u
    storeA y t
    pure (.completed (·.misc.exg))) s

/-- EXG Dx,Ay (R210). -/
def execExgDA (x y : Reg) (s : State) : Host.Outcome State Fault Refusal :=
  perform (do
    let t ← loadD .l x
    let u ← loadA y
    storeD .l x u
    storeA y t
    pure (.completed (·.misc.exg))) s

/-- SWAP (R211). -/
def execSwap (y : Reg) (s : State) : Host.Outcome State Fault Refusal :=
  perform (do
    let d ← loadD .l y
    let v : Long := d.extractLsb' 0 16 ++ d.extractLsb' 16 16
    storeD .l y v
    setLogic .l v
    pure (.completed (·.misc.swap))) s

/-- LINK (R212): `A[y]` is read after A7 goes down. -/
def execLink (y : Reg) (s : State) : Host.Outcome State Fault Refusal :=
  perform (do
    let d ← fetchDisp
    update fun s => s.setActiveSp (s.activeSp - 4)
    let frame ← loadA y
    let sp ← look State.activeSp
    memWrite .instruction .l sp frame
    storeA y sp
    update fun s => s.setActiveSp (s.activeSp + d)
    pure (.completed (·.misc.link))) s

/-- UNLK (R213). For y = 7 the result is a free choice of v and v + 4 (log 2). -/
def execUnlk (y : Reg) (s : State) : Host.Outcome State Fault Refusal :=
  perform (do
    let frame ← loadA y
    update fun s => s.setActiveSp frame
    let v ← pop .instruction .l
    if y = 7 then do
      let plus ← drawBit
      storeA y (if plus then v + 4 else v)
    else storeA y v
    pure (.completed (·.misc.unlk))) s

end Sys2Proof.Machine
end

