-- ==== Sys2Proof/Machine/Logical.lean ====
section
/-!
DEFINITION. Logical instructions (42_logical.md, R321-R329).
-/

namespace Sys2Proof.Machine

/-- AND as an operation on destination and source. -/
def andOp (sz : Size) (d s : Long) : Exec Long := logicOp sz (d &&& s)

/-- OR as an operation on destination and source. -/
def orOp (sz : Size) (d s : Long) : Exec Long := logicOp sz (d ||| s)

/-- EOR as an operation on destination and source. -/
def eorOp (sz : Size) (d s : Long) : Exec Long := logicOp sz (d ^^^ s)

/-- AND-EA2D (R321). -/
def execAndEaD (x : Reg) (sz : Size) (ea : EA) (s : State) : Host.Outcome State Fault Refusal :=
  perform (toRegBody andOp sz x ea (logicRegTime sz ea)) s

/-- AND-D2EA (R322). -/
def execAndDEa (x : Reg) (sz : Size) (ea : EA) (s : State) : Host.Outcome State Fault Refusal :=
  perform (toMemBody andOp sz x ea (logicMemTime sz ea)) s

/-- ANDI (R323). -/
def execAndi (sz : Size) (ea : EA) (s : State) : Host.Outcome State Fault Refusal :=
  perform (immBody andOp sz ea (andiTime sz ea)) s

/-- OR-EA2D (R324). -/
def execOrEaD (x : Reg) (sz : Size) (ea : EA) (s : State) : Host.Outcome State Fault Refusal :=
  perform (toRegBody orOp sz x ea (logicRegTime sz ea)) s

/-- OR-D2EA (R325). -/
def execOrDEa (x : Reg) (sz : Size) (ea : EA) (s : State) : Host.Outcome State Fault Refusal :=
  perform (toMemBody orOp sz x ea (logicMemTime sz ea)) s

/-- ORI (R326). -/
def execOri (sz : Size) (ea : EA) (s : State) : Host.Outcome State Fault Refusal :=
  perform (immBody orOp sz ea (oriTime sz ea)) s

/-- EOR (R327): the destination may be a data register. -/
def execEor (x : Reg) (sz : Size) (ea : EA) (s : State) : Host.Outcome State Fault Refusal :=
  perform (toMemBody eorOp sz x ea (eorTime sz ea)) s

/-- EORI (R328). -/
def execEori (sz : Size) (ea : EA) (s : State) : Host.Outcome State Fault Refusal :=
  perform (immBody eorOp sz ea (oriTime sz ea)) s

/-- NOT (R329). -/
def execNotEa (sz : Size) (ea : EA) (s : State) : Host.Outcome State Fault Refusal :=
  perform (do
    modify sz ea fun d => logicOp sz (trunc sz (~~~d))
    pure (.completed (unaryTime sz ea))) s

end Sys2Proof.Machine
end

