-- ==== Sys2Proof/Machine/Shift.lean ====
section
/-!
DEFINITION. Shifts and rotates (43_shift_rotate.md, R350-R367): each kind is its result, its flags
and the count-zero rule, shared by the register and the memory form.
-/

namespace Sys2Proof.Machine

/-- Result and flags of a shift of a given kind by a count of at least 1, given the flags before. -/
abbrev ShiftOp := Flags → Size → Long → Nat → Long × Flags

/-- ASL (R351). -/
def aslOp : ShiftOp := fun _ sz d n => (aslValue sz d n, aslFlags sz d n)

/-- ASR (R352). -/
def asrOp : ShiftOp := fun _ sz d n => (asrValue sz d n, asrFlags sz d n)

/-- LSL (R353). -/
def lslOp : ShiftOp := fun _ sz d n => (aslValue sz d n, lslFlags sz d n)

/-- LSR (R354). -/
def lsrOp : ShiftOp := fun _ sz d n => (lsrValue sz d n, lsrFlags sz d n)

/-- ROL (R355). -/
def rolOp : ShiftOp := fun old sz d n => (rolValue sz d n, rolFlags old.x sz d n)

/-- ROR (R356). -/
def rorOp : ShiftOp := fun old sz d n => (rorValue sz d n, rorFlags old.x sz d n)

/-- ROXL (R357). -/
def roxlOp : ShiftOp := fun old sz d n =>
  (roxValue sz (roxlBits old.x sz d n), roxFlags sz (roxlBits old.x sz d n))

/-- ROXR (R358). -/
def roxrOp : ShiftOp := fun old sz d n =>
  (roxValue sz (roxrBits old.x sz d n), roxFlags sz (roxrBits old.x sz d n))

/-- The register form (R350): a count of 0 leaves the register and follows R367. -/
def shiftRegBody (op : ShiftOp) (xToC : Bool) (count : Count) (sz : Size) (y : Reg) :
    Exec Done := do
  let n ← look fun s => shiftCount s count
  let d ← loadD sz y
  let old ← look State.flags
  if n = 0 then do
    let cfg ← look State.cfg
    setFlagsFrom fun old => shiftZeroFlags cfg.shiftZero xToC old sz d
  else do
    storeD sz y (op old sz d n).1
    setFlagsFrom fun old => (op old sz d n).2
  pure (.completed (shiftRegTime sz n))

/-- The memory form (section 3): a word, by one, read and written at one location. -/
def shiftMemBody (op : ShiftOp) (ea : EA) : Exec Done := do
  modify .w ea fun d => do
    let old ← look State.flags
    setFlagsFrom fun old => (op old .w d 1).2
    pure (op old .w d 1).1
  pure (.completed (shiftMemTime ea))

/-- ASL-R (R351). -/
def execAslR (n : Count) (sz : Size) (y : Reg) (s : State) : Host.Outcome State Fault Refusal :=
  perform (shiftRegBody aslOp false n sz y) s

/-- ASL-M (R359). -/
def execAslM (ea : EA) (s : State) : Host.Outcome State Fault Refusal :=
  perform (shiftMemBody aslOp ea) s

/-- ASR-R (R352). -/
def execAsrR (n : Count) (sz : Size) (y : Reg) (s : State) : Host.Outcome State Fault Refusal :=
  perform (shiftRegBody asrOp false n sz y) s

/-- ASR-M (R360). -/
def execAsrM (ea : EA) (s : State) : Host.Outcome State Fault Refusal :=
  perform (shiftMemBody asrOp ea) s

/-- LSL-R (R353). -/
def execLslR (n : Count) (sz : Size) (y : Reg) (s : State) : Host.Outcome State Fault Refusal :=
  perform (shiftRegBody lslOp false n sz y) s

/-- LSL-M (R361). -/
def execLslM (ea : EA) (s : State) : Host.Outcome State Fault Refusal :=
  perform (shiftMemBody lslOp ea) s

/-- LSR-R (R354). -/
def execLsrR (n : Count) (sz : Size) (y : Reg) (s : State) : Host.Outcome State Fault Refusal :=
  perform (shiftRegBody lsrOp false n sz y) s

/-- LSR-M (R362). -/
def execLsrM (ea : EA) (s : State) : Host.Outcome State Fault Refusal :=
  perform (shiftMemBody lsrOp ea) s

/-- ROL-R (R355). -/
def execRolR (n : Count) (sz : Size) (y : Reg) (s : State) : Host.Outcome State Fault Refusal :=
  perform (shiftRegBody rolOp false n sz y) s

/-- ROL-M (R366). -/
def execRolM (ea : EA) (s : State) : Host.Outcome State Fault Refusal :=
  perform (shiftMemBody rolOp ea) s

/-- ROR-R (R356). -/
def execRorR (n : Count) (sz : Size) (y : Reg) (s : State) : Host.Outcome State Fault Refusal :=
  perform (shiftRegBody rorOp false n sz y) s

/-- ROR-M (R365). -/
def execRorM (ea : EA) (s : State) : Host.Outcome State Fault Refusal :=
  perform (shiftMemBody rorOp ea) s

/-- ROXL-R (R357). -/
def execRoxlR (n : Count) (sz : Size) (y : Reg) (s : State) : Host.Outcome State Fault Refusal :=
  perform (shiftRegBody roxlOp true n sz y) s

/-- ROXL-M (R364). -/
def execRoxlM (ea : EA) (s : State) : Host.Outcome State Fault Refusal :=
  perform (shiftMemBody roxlOp ea) s

/-- ROXR-R (R358). -/
def execRoxrR (n : Count) (sz : Size) (y : Reg) (s : State) : Host.Outcome State Fault Refusal :=
  perform (shiftRegBody roxrOp true n sz y) s

/-- ROXR-M (R363). -/
def execRoxrM (ea : EA) (s : State) : Host.Outcome State Fault Refusal :=
  perform (shiftMemBody roxrOp ea) s

end Sys2Proof.Machine
end

