-- ==== Sys2Proof/Machine/System.lean ====
section
/-!
DEFINITION. System control (47_system_control.md, R461-R480).
-/

namespace Sys2Proof.Machine

/-! ### CCR operations (R461-R463, R467) -/

/-- `#imm,CCR` (R461-R463): only `SR[4:0]` changes. -/
def immCcrBody (op : BitVec 5 → BitVec 5 → BitVec 5) : Exec Done := do
  let w ← fetchWord
  update fun s => s.setCcr (op (s.sr.extractLsb' 0 5) (w.setWidth 5))
  pure (.completed (·.misc.toCcr))

/-- ANDI-CCR (R461). -/
def execAndiCcr (s : State) : Host.Outcome State Fault Refusal :=
  perform (immCcrBody (· &&& ·)) s

/-- ORI-CCR (R462). -/
def execOriCcr (s : State) : Host.Outcome State Fault Refusal :=
  perform (immCcrBody (· ||| ·)) s

/-- EORI-CCR (R463). -/
def execEoriCcr (s : State) : Host.Outcome State Fault Refusal :=
  perform (immCcrBody (· ^^^ ·)) s

/-- MOVE-to-CCR (R467): the source is a word. -/
def execMoveToCcr (ea : EA) (s : State) : Host.Outcome State Fault Refusal :=
  perform (do
    let v ← source .w ea
    update fun s => s.setCcr (v.setWidth 5)
    pure (.completed (moveToCcrTime ea))) s

/-- MOVE-from-SR (R469): not privileged. -/
def execMoveFromSr (ea : EA) (s : State) : Host.Outcome State Fault Refusal :=
  perform (do
    let loc ← resolveEa .w ea
    dummyRead .w loc
    let sr ← look State.sr
    writeLoc .w loc (sr.setWidth 32)
    pure (.completed (moveFromSrTime ea))) s

/-! ### SR operations (R464-R466, R468) -/

/-- `#imm,SR` (R464-R466). -/
def immSrBody (op : Word → Word → Word) : Exec Done := do
  let w ← fetchWord
  update fun s => s.setSr (op s.sr w)
  pure (.completed (·.misc.toSr))

/-- ANDI-SR (R464). -/
def execAndiSr (s : State) : Host.Outcome State Fault Refusal :=
  privileged (immSrBody (· &&& ·)) s

/-- ORI-SR (R465). -/
def execOriSr (s : State) : Host.Outcome State Fault Refusal :=
  privileged (immSrBody (· ||| ·)) s

/-- EORI-SR (R466). -/
def execEoriSr (s : State) : Host.Outcome State Fault Refusal :=
  privileged (immSrBody (· ^^^ ·)) s

/-- MOVE-to-SR (R468). -/
def execMoveToSr (ea : EA) (s : State) : Host.Outcome State Fault Refusal :=
  privileged (do
    let v ← source .w ea
    update fun s => s.setSr (v.setWidth 16)
    pure (.completed (moveToSrTime ea))) s

/-! ### USP, RTE, RESET, STOP (R470-R472, R474, R475) -/

/-- MOVE-to-USP (R470). -/
def execMoveToUsp (y : Reg) (s : State) : Host.Outcome State Fault Refusal :=
  privileged (do
    update fun s => { s with usp := s.readA y }
    pure (.completed (·.misc.moveUsp))) s

/-- MOVE-from-USP (R471). -/
def execMoveFromUsp (y : Reg) (s : State) : Host.Outcome State Fault Refusal :=
  privileged (do
    update fun s => s.writeA y s.usp
    pure (.completed (·.misc.moveUsp))) s

/-- RTE (R472). -/
def execRte (s : State) : Host.Outcome State Fault Refusal :=
  privileged (do
    returnFromException
    pure (.completed (·.misc.rte))) s

/-- RESET (R474): the callback only; no core state changes. -/
def execReset (s : State) : Host.Outcome State Fault Refusal :=
  privileged (do
    let h ← look State.handlers
    let _ ← callHandler h.resetInstr .resetInstr 0
    pure (.completed (·.misc.reset))) s

/-- STOP (R475). -/
def execStop (s : State) : Host.Outcome State Fault Refusal :=
  privileged (do
    let w ← fetchWord
    update fun s => { s.setSr w with stopped := true }
    pure (.completed (·.misc.stop))) s

/-! ### Traps and illegal encodings (R473, R476-R478) -/

/-- TRAP (R473): vector 32 + n. -/
def execTrap (v : Fin 16) (s : State) : Host.Outcome State Fault Refusal :=
  perform (pure (.group2 (BitVec.ofNat 8 (32 + v.val)) (·.exception.trap))) s

/-- ILLEGAL (R476, R514): vector 4. -/
def execIllegal (s : State) : Host.Outcome State Fault Refusal := illegalException 4 s

/-- LINE-A (R477, R515): vector 10. -/
def execLineA (_w : BitVec 12) (s : State) : Host.Outcome State Fault Refusal :=
  illegalException 10 s

/-- LINE-F (R478, R515): vector 11. -/
def execLineF (_w : BitVec 12) (s : State) : Host.Outcome State Fault Refusal :=
  illegalException 11 s

end Sys2Proof.Machine
end

