-- ==== Sys2Proof/Machine/Dispatch.lean ====
section
/-!
DEFINITION. The one dispatch of the machine: one arm per constructor, each a direct call of that
instruction's meaning.
-/

namespace Sys2Proof.Machine

def exec (i : Instr) (s : State) : Host.Outcome State Fault Refusal :=
  match i with
  | .oriCcr => Sys2Proof.Machine.execOriCcr s
  | .oriSr => Sys2Proof.Machine.execOriSr s
  | .andiCcr => Sys2Proof.Machine.execAndiCcr s
  | .andiSr => Sys2Proof.Machine.execAndiSr s
  | .eoriCcr => Sys2Proof.Machine.execEoriCcr s
  | .eoriSr => Sys2Proof.Machine.execEoriSr s
  | .ori sz ea => Sys2Proof.Machine.execOri sz ea s
  | .andi sz ea => Sys2Proof.Machine.execAndi sz ea s
  | .subi sz ea => Sys2Proof.Machine.execSubi sz ea s
  | .addi sz ea => Sys2Proof.Machine.execAddi sz ea s
  | .eori sz ea => Sys2Proof.Machine.execEori sz ea s
  | .cmpi sz ea => Sys2Proof.Machine.execCmpi sz ea s
  | .btstS ea => Sys2Proof.Machine.execBtstS ea s
  | .bchgS ea => Sys2Proof.Machine.execBchgS ea s
  | .bclrS ea => Sys2Proof.Machine.execBclrS ea s
  | .bsetS ea => Sys2Proof.Machine.execBsetS ea s
  | .btstD x ea => Sys2Proof.Machine.execBtstD x ea s
  | .bchgD x ea => Sys2Proof.Machine.execBchgD x ea s
  | .bclrD x ea => Sys2Proof.Machine.execBclrD x ea s
  | .bsetD x ea => Sys2Proof.Machine.execBsetD x ea s
  | .movepWM2R x y => Sys2Proof.Machine.execMovepWM2R x y s
  | .movepLM2R x y => Sys2Proof.Machine.execMovepLM2R x y s
  | .movepWR2M x y => Sys2Proof.Machine.execMovepWR2M x y s
  | .movepLR2M x y => Sys2Proof.Machine.execMovepLR2M x y s
  | .moveB src dst => Sys2Proof.Machine.execMoveB src dst s
  | .moveW src dst => Sys2Proof.Machine.execMoveW src dst s
  | .moveL src dst => Sys2Proof.Machine.execMoveL src dst s
  | .moveaW src x => Sys2Proof.Machine.execMoveaW src x s
  | .moveaL src x => Sys2Proof.Machine.execMoveaL src x s
  | .moveFromSr ea => Sys2Proof.Machine.execMoveFromSr ea s
  | .moveToCcr ea => Sys2Proof.Machine.execMoveToCcr ea s
  | .moveToSr ea => Sys2Proof.Machine.execMoveToSr ea s
  | .negx sz ea => Sys2Proof.Machine.execNegx sz ea s
  | .clr sz ea => Sys2Proof.Machine.execClr sz ea s
  | .neg sz ea => Sys2Proof.Machine.execNeg sz ea s
  | .notEa sz ea => Sys2Proof.Machine.execNotEa sz ea s
  | .tst sz ea => Sys2Proof.Machine.execTst sz ea s
  | .nbcd ea => Sys2Proof.Machine.execNbcd ea s
  | .swap y => Sys2Proof.Machine.execSwap y s
  | .pea ea => Sys2Proof.Machine.execPea ea s
  | .extW y => Sys2Proof.Machine.execExtW y s
  | .extL y => Sys2Proof.Machine.execExtL y s
  | .movemWR2M ea => Sys2Proof.Machine.execMovemWR2M ea s
  | .movemLR2M ea => Sys2Proof.Machine.execMovemLR2M ea s
  | .tas ea => Sys2Proof.Machine.execTas ea s
  | .illegal => Sys2Proof.Machine.execIllegal s
  | .movemWM2R ea => Sys2Proof.Machine.execMovemWM2R ea s
  | .movemLM2R ea => Sys2Proof.Machine.execMovemLM2R ea s
  | .chk x ea => Sys2Proof.Machine.execChk x ea s
  | .lea x ea => Sys2Proof.Machine.execLea x ea s
  | .trap v => Sys2Proof.Machine.execTrap v s
  | .link y => Sys2Proof.Machine.execLink y s
  | .unlk y => Sys2Proof.Machine.execUnlk y s
  | .moveToUsp y => Sys2Proof.Machine.execMoveToUsp y s
  | .moveFromUsp y => Sys2Proof.Machine.execMoveFromUsp y s
  | .reset => Sys2Proof.Machine.execReset s
  | .nop => Sys2Proof.Machine.execNop s
  | .stop => Sys2Proof.Machine.execStop s
  | .rte => Sys2Proof.Machine.execRte s
  | .rts => Sys2Proof.Machine.execRts s
  | .trapv => Sys2Proof.Machine.execTrapv s
  | .rtr => Sys2Proof.Machine.execRtr s
  | .jsr ea => Sys2Proof.Machine.execJsr ea s
  | .jmp ea => Sys2Proof.Machine.execJmp ea s
  | .addqB q ea => Sys2Proof.Machine.execAddqB q ea s
  | .addqWL q sz ea => Sys2Proof.Machine.execAddqWL q sz ea s
  | .subqB q ea => Sys2Proof.Machine.execSubqB q ea s
  | .subqWL q sz ea => Sys2Proof.Machine.execSubqWL q sz ea s
  | .dbcc cond y => Sys2Proof.Machine.execDbcc cond y s
  | .scc cond ea => Sys2Proof.Machine.execScc cond ea s
  | .bra d8 => Sys2Proof.Machine.execBra d8 s
  | .bsr d8 => Sys2Proof.Machine.execBsr d8 s
  | .bcc cond d8 => Sys2Proof.Machine.execBcc cond d8 s
  | .moveq x d8 => Sys2Proof.Machine.execMoveq x d8 s
  | .subEaDB x ea => Sys2Proof.Machine.execSubEaDB x ea s
  | .subEaDWL x sz ea => Sys2Proof.Machine.execSubEaDWL x sz ea s
  | .subDEa x sz ea => Sys2Proof.Machine.execSubDEa x sz ea s
  | .subaW x ea => Sys2Proof.Machine.execSubaW x ea s
  | .subaL x ea => Sys2Proof.Machine.execSubaL x ea s
  | .subxR x sz y => Sys2Proof.Machine.execSubxR x sz y s
  | .subxM x sz y => Sys2Proof.Machine.execSubxM x sz y s
  | .addEaDB x ea => Sys2Proof.Machine.execAddEaDB x ea s
  | .addEaDWL x sz ea => Sys2Proof.Machine.execAddEaDWL x sz ea s
  | .addDEa x sz ea => Sys2Proof.Machine.execAddDEa x sz ea s
  | .addaW x ea => Sys2Proof.Machine.execAddaW x ea s
  | .addaL x ea => Sys2Proof.Machine.execAddaL x ea s
  | .addxR x sz y => Sys2Proof.Machine.execAddxR x sz y s
  | .addxM x sz y => Sys2Proof.Machine.execAddxM x sz y s
  | .orEaD x sz ea => Sys2Proof.Machine.execOrEaD x sz ea s
  | .orDEa x sz ea => Sys2Proof.Machine.execOrDEa x sz ea s
  | .divu x ea => Sys2Proof.Machine.execDivu x ea s
  | .divs x ea => Sys2Proof.Machine.execDivs x ea s
  | .sbcdR x y => Sys2Proof.Machine.execSbcdR x y s
  | .sbcdM x y => Sys2Proof.Machine.execSbcdM x y s
  | .cmpB x ea => Sys2Proof.Machine.execCmpB x ea s
  | .cmpWL x sz ea => Sys2Proof.Machine.execCmpWL x sz ea s
  | .cmpaW x ea => Sys2Proof.Machine.execCmpaW x ea s
  | .cmpaL x ea => Sys2Proof.Machine.execCmpaL x ea s
  | .eor x sz ea => Sys2Proof.Machine.execEor x sz ea s
  | .cmpm x sz y => Sys2Proof.Machine.execCmpm x sz y s
  | .andEaD x sz ea => Sys2Proof.Machine.execAndEaD x sz ea s
  | .andDEa x sz ea => Sys2Proof.Machine.execAndDEa x sz ea s
  | .mulu x ea => Sys2Proof.Machine.execMulu x ea s
  | .muls x ea => Sys2Proof.Machine.execMuls x ea s
  | .abcdR x y => Sys2Proof.Machine.execAbcdR x y s
  | .abcdM x y => Sys2Proof.Machine.execAbcdM x y s
  | .exgDD x y => Sys2Proof.Machine.execExgDD x y s
  | .exgAA x y => Sys2Proof.Machine.execExgAA x y s
  | .exgDA x y => Sys2Proof.Machine.execExgDA x y s
  | .asrR n sz y => Sys2Proof.Machine.execAsrR n sz y s
  | .asrM ea => Sys2Proof.Machine.execAsrM ea s
  | .aslR n sz y => Sys2Proof.Machine.execAslR n sz y s
  | .aslM ea => Sys2Proof.Machine.execAslM ea s
  | .lsrR n sz y => Sys2Proof.Machine.execLsrR n sz y s
  | .lsrM ea => Sys2Proof.Machine.execLsrM ea s
  | .lslR n sz y => Sys2Proof.Machine.execLslR n sz y s
  | .lslM ea => Sys2Proof.Machine.execLslM ea s
  | .roxrR n sz y => Sys2Proof.Machine.execRoxrR n sz y s
  | .roxrM ea => Sys2Proof.Machine.execRoxrM ea s
  | .roxlR n sz y => Sys2Proof.Machine.execRoxlR n sz y s
  | .roxlM ea => Sys2Proof.Machine.execRoxlM ea s
  | .rorR n sz y => Sys2Proof.Machine.execRorR n sz y s
  | .rorM ea => Sys2Proof.Machine.execRorM ea s
  | .rolR n sz y => Sys2Proof.Machine.execRolR n sz y s
  | .rolM ea => Sys2Proof.Machine.execRolM ea s
  | .lineA w => Sys2Proof.Machine.execLineA w s
  | .lineF w => Sys2Proof.Machine.execLineF w s

end Sys2Proof.Machine
end

