-- ==== Sys2Proof/Machine/StepOps.lean ====
section
/-!
DEFINITION. What a step does around an instruction (60_exceptions.md sections 5-10): boundaries,
interrupts, trace, the idle detector and the delayed level.
-/

namespace Sys2Proof.Machine

/-! ### Boundaries (R540, R551, R567, R572) -/

/-- Halted: `halt_pin or double_fault` (R63). -/
def State.halted (s : State) : Bool := s.haltPin || s.doubleFault

/-- Apply a due delayed level (R567): `(l, 0)`, or `(l, k)` while stopped or halted. -/
def applyDelayed (s : State) : State :=
  match s.delayedIrq with
  | some (l, k) => if k = 0 || s.stopped || s.halted then setIrq l s else s
  | none => s

/-- The deliverable interrupt level at a boundary (R540). -/
def pendingLevel (s : State) : Option Level :=
  if s.nmiPending then some 7
  else if s.irqMask < s.intLevel then some s.intLevel
  else none

/-- An idle step (R572, R652): the rest of the budget is charged and the detector's flag cleared
(R580, log 13, 14). -/
def idleStep (s : State) : State :=
  finish .idle (fun _ => s.budget - s.cyclesRun)
    { s with idleDetected := if s.cfg.idleDetect then false else s.idleDetected }

/-! ### Interrupts (R543-R545) -/

/-- The vector of an acknowledge answer (R543). -/
def ackVector (l : Level) (answer : Long) : Option Byte :=
  if answer.toNat < 256 then some (answer.setWidth 8)
  else if answer = 0xFFFFFFFF then some (BitVec.ofNat 8 (24 + l.val))
  else if answer = 0xFFFFFFFE then some 24
  else none

/-- The acknowledge cycle (R118, R543): FC 7, then int_ack. The default answers AUTOVECTOR (R69). -/
def acknowledge (l : Level) : Exec Byte := do
  driveFc 7
  let h ← look State.handlers
  let answer ← callHandler h.intAck (.intAck l) 0xFFFFFFFF
  match ackVector l answer with
  | some v => pure v
  | none => failWith (.badIackVector l answer)

/-- `InterruptStep(L)` (R544). -/
def interruptStep (l : Level) (s : State) : Host.Outcome State Fault Refusal :=
  let s := { s with
    nmiPending := if l = 7 then false else s.nmiPending
    idleDetected := if s.cfg.idleDetect then false else s.idleDetected }
  match acknowledge l s with
  | .ok v t => takeException .interrupt (·.exception.interrupt) v t.pc (some l) t
  | .error .addressError t => addressError t
  | .error (.fault f) _ => .fault f

/-! ### After an instruction (R530, R567, R580) -/

/-- The step executed an instruction: Completed, a group 2 exception or an address error (R567). An
address error in the entry of an exception raised at decode counts as an address error: the model's
choice (log 15). -/
def executed : StepEnd → Bool
  | .completed | .group2 | .addressFault => true
  | _ => false

/-- A trace follows: `trace_pending`, and the instruction ended Completed or in a group 2 exception
(R530). -/
def traceDue (s : State) : Bool :=
  s.tracePending && (s.lastEnd == .completed || s.lastEnd == .group2)

/-- The trace exception (R530), its cost added (R643). -/
def traceStep (s : State) : Host.Outcome State Fault Refusal :=
  if traceDue s then takeException s.lastEnd (·.exception.trace) 9 s.pc none s else .next s

/-- Bcc or BRA (R580). -/
def isIdleBranch : Option Instr → Bool
  | some (.bcc _ _) => true
  | some (.bra _) => true
  | _ => false

/-- The step's instruction was a taken Bcc or BRA to itself that ended Completed (R580). -/
def idleCandidate (i : Option Instr) (s : State) : Bool :=
  isIdleBranch i && s.lastEnd == .completed && s.pc == s.instPc

/-- The idle detector's update (R580); `start` is the total at the step's start. -/
def updateIdle (candidate : Bool) (start : Nat) (s : State) : State :=
  if s.cfg.idleDetect then
    if candidate then
      { s with
        idleDetected := s.idlePc == s.instPc && s.idleCycle == start
        idlePc := s.instPc
        idleCycle := s.cyclesTotal }
    else { s with idleDetected := false }
  else s

/-- The instruction that starts is the one that a level delayed by `set_irq_delay` waits for (R567):
`(l, 1)` becomes `(l, 0)`, which no boundary sees before the instruction has ended. Counted at the
start, so that a level delayed from inside the instruction waits for one more (R614, log 15). -/
def countDown (s : State) : State :=
  { s with delayedIrq := s.delayedIrq.map fun p => (p.1, 0) }

/-- A step that executed no instruction counts for none (R567). -/
def countBack (ran : Bool) (s : State) : State :=
  if ran then s else { s with delayedIrq := s.delayedIrq.map fun p => (p.1, 1) }

/-- R571 after the instruction: trace, idle detector, countdown, `trace_pending` cleared. `i` is
the decoded instruction, `start` the cycle total at the step's start, `s` the state its meaning
answered. -/
def afterInstruction (i : Option Instr) (start : Nat) (s : State) :
    Host.Outcome State Fault Refusal :=
  match traceStep s with
  | .next t =>
    let t := updateIdle (idleCandidate i s) start t
    let t := countBack (executed s.lastEnd) t
    .next { t with tracePending := false }
  | .fault f => .fault f
  | .refused r => .refused r

/-! ### The instruction step (R571) -/

/-- The opcode fetch (R571): `inst_pc`, `trace_pending`, then IR. -/
def fetchOpcode : Exec Word := do
  update fun s => { s with instPc := s.pc, tracePending := s.cfg.emulateTrace && s.flagT }
  let w ← fetchWord
  update fun s => { s with ir := w }
  pure w

/-- A word that is no row's raises IllegalInstruction (R480, R514). -/
def executeWord (w : Word) (s : State) : Host.Outcome State Fault Refusal :=
  match decode w with
  | .ok i => exec i s
  | .error _ => illegalException 4 s

/-- The decoded instruction, where the word is a row's. -/
def decoded (w : Word) : Option Instr :=
  match decode w with
  | .ok i => some i
  | .error _ => none

/-- `InstructionStep()` (R571). An address error of the opcode fetch ends the instruction. -/
def instructionStep (s : State) : Host.Outcome State Fault Refusal :=
  match fetchOpcode (countDown s) with
  | .ok w t =>
    match executeWord w t with
    | .next u => afterInstruction (decoded w) s.cyclesTotal u
    | .fault f => .fault f
    | .refused r => .refused r
  | .error .addressError t =>
    match addressError t with
    | .next u => afterInstruction none s.cyclesTotal u
    | .fault f => .fault f
    | .refused r => .refused r
  | .error (.fault f) _ => .fault f

/-- What a boundary leads to (R570), once the rollback copy is taken and a due level applied. -/
def atBoundary (s : State) : Host.Outcome State Fault Refusal :=
  if s.halted then .next (idleStep s)
  else
    match pendingLevel s with
    | some l => interruptStep l s
    | none => if s.stopped then .next (idleStep s) else instructionStep s

/-- `Step()` (R570). -/
def oneStep (s : State) : Host.Outcome State Fault Refusal :=
  atBoundary (applyDelayed s.takeSaved)

/-! ### Placing an instruction (log 9) -/

/-- Make the region of a bus address pointer-backed. -/
def mapPointer (a : Addr) (s : State) : State :=
  { s with map := s.map.set (regionOf a).val .pointer (regionOf a).isLt }

/-- Store bytes where a fetch at `a` reads them. -/
def placeBytes : Addr → List Byte → State → State
  | _, [], s => s
  | a, v :: vs, s => placeBytes (a + 1) vs (pokeByte a v (mapPointer a s))

/-- Nothing keeps the next step from being an instruction step: pc is even, and the core is neither
halted, stopped nor interrupted. -/
def readyToRun (s : State) : State :=
  { s with
    pc := s.pc &&& ~~~(1 : Long)
    stopped := false
    haltPin := false
    doubleFault := false
    nmiPending := false
    delayedIrq := none
    intLevel := 0 }

end Sys2Proof.Machine
end

