-- ==== Sys2Proof/Machine/Step.lean ====
section
/-!
DEFINITION. The step of the machine, and the placing of one instruction for its next fetch.
-/

namespace Sys2Proof.Machine

/-- One step (R570). -/
def step (s : State) : Host.Outcome State Fault Refusal := oneStep s

/-- `s` with an instruction, its bits numbered as spec/opcode_table.json numbers them and its
operand words above `nbits` zero, stored where the next step fetches (log 9). -/
def State.withFetchWord (s : State) (nbits w : Nat) : State :=
  let r := readyToRun s
  placeBytes (busAddr r.pc) (tableBytes nbits w) r

end Sys2Proof.Machine
end

