-- ==== Sys2Proof/Machine/HostOps.lean ====
section
/-!
DEFINITION. The host operations (60_exceptions.md sections 8-12, 70_reset_and_hazards.md section 1),
made between steps: initialize, pulse_reset, run, get, set, cycles, idle_detected, the four
install_*, set_map, save and load. set_irq, set_irq_delay, set_halt and clear_halt are `setIrq`,
`setIrqDelay`, `setHalt` and `clearHalt` of Ops (R566-R568).
-/

namespace Sys2Proof.Machine

/-! ### Initialize and reset (R600-R605) -/

/-- `initialize()` (R600) of a context. The values R600 draws are 0 here (log 6). Nothing of the
context survives (D27). The parameters of R8 do, and so do the model's own records of the outside
world, `draws`, `script` and `calls`: the model's choice, since the spec does not say (log 27). -/
def initContext (s : State) : State :=
  { State.reset with
    sr := 0
    fc := 0
    cyclesTotal := 0
    map := Vector.replicate 256 .unmapped
    cfg := s.cfg
    draws := s.draws
    script := s.script
    calls := s.calls }

/-- `ResetRead(a)` (R602): the fast path at FC 6. -/
def resetRead (a : Long) : Exec Long := do
  driveFc 6
  let hi ← fastWord a
  let lo ← fastWord (a + 2)
  pure (hi ++ lo)

/-- What pulse_reset clears before it reads the vector (R601). -/
def clearTransient (s : State) : State :=
  { s with
    stopped := false
    haltPin := false
    doubleFault := false
    intLevel := 0
    nmiPending := false
    delayedIrq := none
    runMode := .group0
    sr := ((s.sr &&& 0x001F) ||| 0x2700) &&& srMask }

/-- `pulse_reset()` (R601). -/
def pulseReset : Exec Unit := do
  update clearTransient
  let sp ← resetRead 0
  update fun s => s.setActiveSp sp
  let pc ← resetRead 4
  update fun s => { s with
    pc := pc
    runMode := .normal
    tracePending := false
    idlePc := 0
    idleCycle := 0
    idleDetected := false
    cyclesTotal := s.cyclesTotal + s.cfg.resetCycles }

/-! ### Run (R575) -/

/-- The loop of `run`, at most `fuel` steps of it (log 23). -/
def runLoop : Nat → State → Host.Outcome State Fault Refusal
  | 0, s => .next s
  | fuel + 1, s =>
    if s.budget ≤ s.cyclesRun then .next s
    else
      match step s with
      | .next t => if t.lastEnd = .idle then .next t else runLoop fuel t
      | .fault f => .fault f
      | .refused r => .refused r

/-- `run(b)` (R575); its result is `cyclesRun` of the state it returns. -/
def run (fuel b : Nat) (s : State) : Host.Outcome State Fault Refusal :=
  runLoop fuel { s with budget := b, cyclesRun := 0 }

/-- `cycles()` (R560, R565). -/
def cycles (s : State) : Nat × Nat := (s.cyclesRun, s.cyclesTotal)

/-- `idle_detected()` (R560, R580): the detector's flag, read between runs. -/
def idleDetected (s : State) : Bool := s.idleDetected

/-! ### get and set (R71, R563) -/

/-- The register names of R71. -/
inductive RegName where
  | d (n : Reg)
  | a (n : Reg)
  | pc | sr | sp | usp | isp | prefAddr | prefData | ir
  deriving DecidableEq, Repr

/-- `get(register)` (R563). -/
def getReg (r : RegName) (s : State) : Long :=
  match r with
  | .d n => s.readD n
  | .a n => s.readA n
  | .pc => s.pc
  | .sr => s.sr.setWidth 32
  | .sp => s.activeSp
  | .usp => s.usp
  | .isp => s.ssp
  | .prefAddr => s.prefAddr
  | .prefData => s.prefData
  | .ir => s.ir.setWidth 32

/-- `set(register, v)` (R563). -/
def setReg (r : RegName) (v : Long) (s : State) : State :=
  match r with
  | .d n => s.writeD n v
  | .a n => s.writeA n v
  | .pc => s.setPc v
  | .sr => s.setSr (v.setWidth 16)
  | .sp => s.setActiveSp v
  | .usp => { s with usp := v }
  | .isp => { s with ssp := v }
  | .prefAddr => { s with prefAddr := v }
  | .prefData => { s with prefData := v }
  | .ir => { s with ir := v.setWidth 16 }

/-- The value a register can hold of a 32-bit value (R563). -/
def holdable (r : RegName) (v : Long) : Long :=
  match r with
  | .sr => (v.setWidth 16 &&& srMask).setWidth 32
  | .ir => (v.setWidth 16).setWidth 32
  | _ => v

/-! ### Callbacks and the map (R569, R100) -/

/-- `install_int_ack(h)` (R569): the one callback is replaced, the other three stay. -/
def installIntAck (h : Handler) (s : State) : State :=
  { s with handlers := { s.handlers with intAck := h } }

/-- `install_reset_instr(h)` (R569). -/
def installResetInstr (h : Handler) (s : State) : State :=
  { s with handlers := { s.handlers with resetInstr := h } }

/-- `install_tas_instr(h)` (R569). -/
def installTasInstr (h : Handler) (s : State) : State :=
  { s with handlers := { s.handlers with tasInstr := h } }

/-- `install_fc_change(h)` (R569). -/
def installFcChange (h : Handler) (s : State) : State :=
  { s with handlers := { s.handlers with fcChange := h } }

/-- The addresses of one region. -/
def inRegion (i : Fin 256) (a : Nat) : Bool := a / 65536 == i.val

/-- `set_map(i, entry)` (R569, R100). A pointer entry brings its storage: `bytes` from offset 0 on,
the rest as unlisted (log 10). -/
def setMap (i : Fin 256) (entry : Region) (bytes : List Byte) (s : State) : State :=
  let t := { s with
    map := s.map.set i.val entry i.isLt
    mem := s.mem.filter fun c => !inRegion i c.1 }
  if entry = .pointer then pokeBytes (BitVec.ofNat 24 (i.val * 65536)) (bytes.take 65536) t else t

/-! ### Snapshots (R585, R586) -/

/-- The fields that R585 lists. Three fields of 10_state.md are not in its list and not here, the
model's choice: `trace_pending`, `inst_pc` and the rollback copy, which matter inside a step only
(log 25). -/
structure Snapshot where
  d : Vector Long 8
  a : Vector Long 7
  usp : Long
  ssp : Long
  pc : Long
  sr : Word
  ir : Word
  prefAddr : Long
  prefData : Long
  fc : BitVec 3
  intLevel : Level
  nmiPending : Bool
  delayedIrq : Option (Level × Fin 2)
  runMode : RunMode
  stopped : Bool
  haltPin : Bool
  doubleFault : Bool
  aerrAddress : Long
  aerrWrite : Bool
  aerrInstr : Bool
  aerrFc : BitVec 3
  cyclesTotal : Nat
  cyclesRun : Nat
  budget : Nat
  idlePc : Long
  idleCycle : Nat
  idleDetected : Bool
  deriving DecidableEq, Repr

/-- `save()` (R585). -/
def save (s : State) : Snapshot where
  d := s.d
  a := s.a
  usp := s.usp
  ssp := s.ssp
  pc := s.pc
  sr := s.sr
  ir := s.ir
  prefAddr := s.prefAddr
  prefData := s.prefData
  fc := s.fc
  intLevel := s.intLevel
  nmiPending := s.nmiPending
  delayedIrq := s.delayedIrq
  runMode := s.runMode
  stopped := s.stopped
  haltPin := s.haltPin
  doubleFault := s.doubleFault
  aerrAddress := s.aerrAddress
  aerrWrite := s.aerrWrite
  aerrInstr := s.aerrInstr
  aerrFc := s.aerrFc
  cyclesTotal := s.cyclesTotal
  cyclesRun := s.cyclesRun
  budget := s.budget
  idlePc := s.idlePc
  idleCycle := s.idleCycle
  idleDetected := s.idleDetected

/-- `load(s)` (R585): the callbacks, the map and memory stay; SR keeps its implemented bits (R47).
That the draws to come are the target's, and do not repeat the saved context's, is the model's
choice (log 28). -/
def load (n : Snapshot) (s : State) : State :=
  { s with
    d := n.d
    a := n.a
    usp := n.usp
    ssp := n.ssp
    pc := n.pc
    sr := n.sr &&& srMask
    ir := n.ir
    prefAddr := n.prefAddr
    prefData := n.prefData
    fc := n.fc
    intLevel := n.intLevel
    nmiPending := n.nmiPending
    delayedIrq := n.delayedIrq
    runMode := n.runMode
    stopped := n.stopped
    haltPin := n.haltPin
    doubleFault := n.doubleFault
    aerrAddress := n.aerrAddress
    aerrWrite := n.aerrWrite
    aerrInstr := n.aerrInstr
    aerrFc := n.aerrFc
    cyclesTotal := n.cyclesTotal
    cyclesRun := n.cyclesRun
    budget := n.budget
    idlePc := n.idlePc
    idleCycle := n.idleCycle
    idleDetected := n.idleDetected }

end Sys2Proof.Machine
end

