-- ==== Sys2Proof/Safety.lean ====
section
/-!
DEFINITION. The terms in which claims speak: when a run is undisturbed by the host, when an operand
can be fetched, read and written, what an operand is worth, and what a state looks like after an
access, each said of a state alone, without the step's monad; and the invariant of the machine.
-/

namespace Sys2Proof.Machine

/-! ### States that agree -/

/-- Equal in every field but FC and the record of callback calls: what accesses alone change in
them (R120) is left out. -/
def SameButBus (t u : State) : Prop := t = { u with fc := t.fc, calls := t.calls }

/-- The outcome is a next state, equal to `u` but for FC and the record of callback calls. -/
def Reaches (o : Host.Outcome State Fault Refusal) (u : State) : Prop :=
  ∃ t, o = .next t ∧ SameButBus t u

/-- The outcome is a next state with a property. -/
def ReachesSome (o : Host.Outcome State Fault Refusal) (p : State → Prop) : Prop :=
  ∃ t, o = .next t ∧ p t

/-! ### Undisturbed accesses -/

/-- The four callbacks are the defaults of R69. -/
def quiet (s : State) : Bool := s.handlers == {}

/-- The byte at an address is in a pointer-backed region (R100). -/
def backed (s : State) (addr : Long) : Bool := s.region (busAddr addr) == .pointer

/-- A region serves accesses of a size and direction: it is pointer-backed, or has the hook of that
width (R103, R105); a long is two words (R104). -/
def serves (r : Region) (sz : Size) (dir : Direction) : Bool :=
  match r, dir with
  | .pointer, _ => true
  | .callbacks read8 read16 _ _, .read => if sz = .b then read8 else read16
  | .callbacks _ _ write8 write16, .write => if sz = .b then write8 else write16
  | .unmapped, _ => false

/-- A data access of a size is aligned (R112) and inside pointer-backed regions. -/
def accessible (s : State) (sz : Size) (addr : Long) : Bool :=
  !misaligned sz addr && backed s addr && (sz != .l || backed s (addr + 2))

/-- A callback region with the hook of the size and direction (R103). -/
def hooked (s : State) (sz : Size) (dir : Direction) (addr : Long) : Bool :=
  let r := s.region (busAddr addr)
  r != .pointer && serves r sz dir

/-- The state in which an access with a function code is made (R120): with FC_EMULATION the code is
driven, and fc_change called on a change; its default does nothing (R69). -/
def driven (fc : BitVec 3) (s : State) : State :=
  if s.cfg.fcEmulation && s.fc != fc then { s with fc := fc, calls := s.calls ++ [.fcChange fc] }
  else s

/-- `n` words can be fetched from `pc` on (R114). -/
def fetchable (s : State) (pc : Long) (n : Nat) : Bool :=
  n == 0 || (!pc.getLsbD 0 &&
    (List.range n).all fun k => backed s (pc + BitVec.ofNat 32 (2 * k)))

/-- No byte of a store is in the window of R130 at `pc`. -/
def clearOf (pc addr : Long) (sz : Size) : Bool :=
  (bytesFrom addr (bytesOf sz)).all fun a => !inWindow pc a

/-- A store of an instruction at an address, made when pc is `pc`, takes place (R111, R130). -/
def storable (s : State) (pc : Long) (sz : Size) (addr : Long) : Bool :=
  accessible s sz addr && clearOf pc addr sz

/-! ### What memory holds -/

/-- The big-endian word at an address (R106). -/
def wordAt (s : State) (addr : Long) : Word :=
  s.mem.read (busAddr addr).toNat ++ s.mem.read (busAddr addr + 1).toNat

/-- The value of a size at an address (R104, R106). -/
def valueAt (s : State) (sz : Size) (addr : Long) : Long :=
  match sz with
  | .b => (s.mem.read (busAddr addr).toNat).setWidth 32
  | .w => (wordAt s addr).setWidth 32
  | .l => wordAt s addr ++ wordAt s (addr + 2)

/-- The bytes of a value, the most significant first (R106). -/
def valueBytes (sz : Size) (v : Long) : List Byte :=
  match sz with
  | .b => [v.extractLsb' 0 8]
  | .w => [v.extractLsb' 8 8, v.extractLsb' 0 8]
  | .l => [v.extractLsb' 24 8, v.extractLsb' 16 8, v.extractLsb' 8 8, v.extractLsb' 0 8]

/-- Memory with a value stored at an address. -/
def storeBytes (m : Memory) (sz : Size) (addr : Long) (v : Long) : Memory :=
  ((bytesFrom addr (bytesOf sz)).zip (valueBytes sz v)).foldl
    (fun m p => m.write p.1.toNat p.2) m

/-- The state with a value stored at an address. -/
def putMem (sz : Size) (addr : Long) (v : Long) (s : State) : State :=
  { s with mem := storeBytes s.mem sz addr v }

/-! ### Operands (R152-R163) -/

/-- The extension words of an addressing mode (R152). -/
def extWords (sz : Size) : EA → Nat
  | .disp _ | .index _ | .absW | .pcDisp | .pcIndex => 1
  | .absL => 2
  | .imm => if sz = .l then 2 else 1
  | _ => 0

/-- Move pc past `n` words. -/
def skipWords (n : Nat) (s : State) : State := s.setPc (s.pc + BitVec.ofNat 32 (2 * n))

/-- The mode names a place in memory (R152). -/
def inMemory : EA → Bool
  | .dreg _ | .areg _ | .imm => false
  | _ => true

/-- The effective address (R160), the extension words being at pc. -/
def eaAddr (s : State) (sz : Size) : EA → Long
  | .ind n | .postInc n => s.readA n
  | .preDec n => s.readA n - stepOf n sz
  | .disp n => s.readA n + (wordAt s s.pc).signExtend 32
  | .index n => s.readA n + indexValue s (wordAt s s.pc) + briefDisp (wordAt s s.pc)
  | .absW => (wordAt s s.pc).signExtend 32
  | .absL => wordAt s s.pc ++ wordAt s (s.pc + 2)
  | .pcDisp => s.pc + (wordAt s s.pc).signExtend 32
  | .pcIndex => s.pc + indexValue s (wordAt s s.pc) + briefDisp (wordAt s s.pc)
  | _ => 0

/-- The immediate at pc (R155). -/
def immAt (s : State) (sz : Size) : Long :=
  match sz with
  | .b => ((wordAt s s.pc).setWidth 8).setWidth 32
  | .w => (wordAt s s.pc).setWidth 32
  | .l => wordAt s s.pc ++ wordAt s (s.pc + 2)

/-- The words of an immediate (R155). -/
def immWords (sz : Size) : Nat := if sz = .l then 2 else 1

/-- The state after an operand is resolved: the address register stepped, pc past the extension
words (R160, R161). -/
def afterEa (s : State) (sz : Size) (ea : EA) : State :=
  skipWords (extWords sz ea) <|
    match ea with
    | .postInc n => s.writeA n (s.readA n + stepOf n sz)
    | .preDec n => s.writeA n (s.readA n - stepOf n sz)
    | _ => s

/-- The value of an operand (R163). -/
def operand (s : State) (sz : Size) (ea : EA) : Long :=
  match ea with
  | .dreg n => trunc sz (s.readD n)
  | .areg n => trunc sz (s.readA n)
  | .imm => immAt s sz
  | _ => valueAt s sz (eaAddr s sz ea)

/-- The extension words of an operand can be fetched. -/
def resolvable (s : State) (sz : Size) (ea : EA) : Bool := fetchable s s.pc (extWords sz ea)

/-- The operand can be resolved and read. -/
def readable (s : State) (sz : Size) (ea : EA) : Bool :=
  resolvable s sz ea && (!inMemory ea || accessible s sz (eaAddr s sz ea))

/-- The operand can be resolved, and a value written to it. -/
def writable (s : State) (sz : Size) (ea : EA) : Bool :=
  resolvable s sz ea && ea.inClass .alt &&
    (!inMemory ea || storable s (afterEa s sz ea).pc sz (eaAddr s sz ea))

/-- Write a value to the operand resolved in `s`, in the later state `t` (R163, R164). -/
def putOperand (s : State) (sz : Size) (ea : EA) (v : Long) (t : State) : State :=
  match ea with
  | .dreg n => t.mergeD sz n v
  | .areg n => t.writeA n v
  | _ => putMem sz (eaAddr s sz ea) v t

/-! ### Register lists and alternate bytes (R204-R207) -/

/-- The registers of a mask, from D0 to A7 (R204, R205). -/
def maskRegs (mask : Word) : List (Fin 16) := maskOrder.filter fun i => mask.getLsbD i.val

/-- The address of the k-th element of a size. -/
def elementAddr (sz : Size) (addr : Long) (k : Nat) : Long :=
  addr + BitVec.ofNat 32 (k * bytesOf sz)

/-- Values stored one after the other from an address up. -/
def putList (sz : Size) (addr : Long) (vs : List Long) (s : State) : State :=
  (vs.zipIdx).foldl (fun t p => putMem sz (elementAddr sz addr p.2) p.1 t) s

/-- Registers loaded, sign-extended, from the memory of `s` at an address up (R205). -/
def loadList (s : State) (sz : Size) (addr : Long) (rs : List (Fin 16)) (t : State) : State :=
  (rs.zipIdx).foldl
    (fun t p => t.writeR p.1 (sext sz (valueAt s sz (elementAddr sz addr p.2)))) t

/-- `n` elements can be read from an address up. -/
def readableList (s : State) (sz : Size) (addr : Long) (n : Nat) : Bool :=
  (List.range n).all fun k => accessible s sz (elementAddr sz addr k)

/-- `n` elements can be stored from an address up. -/
def storableList (s : State) (pc : Long) (sz : Size) (addr : Long) (n : Nat) : Bool :=
  (List.range n).all fun k => storable s pc sz (elementAddr sz addr k)

/-- The k-th byte of MOVEP is at the address plus 2k. -/
def alternateAddr (addr : Long) (k : Nat) : Long := addr + BitVec.ofNat 32 (2 * k)

/-! ### Stacks and exceptions (R510-R512) -/

/-- Push a value: A7 down, then the store. -/
def pushed (sz : Size) (v : Long) (s : State) : State :=
  let t := s.setActiveSp (s.activeSp - BitVec.ofNat 32 (bytesOf sz))
  putMem sz t.activeSp v t

/-- A7 up past a popped value. -/
def popped (sz : Size) (s : State) : State :=
  s.setActiveSp (s.activeSp + BitVec.ofNat 32 (bytesOf sz))

/-- SR after the entry of an exception (R510). -/
def entered (mask : Option Level) (s : State) : State :=
  { s.takeSaved with sr := entrySr s.sr mask &&& srMask }

/-- The state at the handler of an exception (R510, R512). -/
def atHandler (v : Byte) (stackedPc : Long) (mask : Option Level) (s : State) : State :=
  let t := pushed .w (s.sr.setWidth 32) (pushed .l stackedPc (entered mask s))
  { t with pc := valueAt t .l (vectorAddr v), stopped := false }

/-- The frame and the vector of an exception are accessible. -/
def canEnter (v : Byte) (s : State) : Bool :=
  accessible s .l (s.ssp - 4) && accessible s .w (s.ssp - 6) && accessible s .l (vectorAddr v)

/-! ### Ends of an instruction -/

/-- The end of an instruction that completes with a cost. -/
def completes (cost : Cost) (s : State) : State := finish .completed cost s

/-- The end of an instruction in a group 2 exception with its cost (R517, R643). -/
def traps (v : Byte) (cost : Cost) (s : State) : State :=
  finish .group2 cost (atHandler v s.pc none s)

/-- The end of an instruction in an exception raised at decode (R514-R516). -/
def trapsAtDecode (v : Byte) (cost : Cost) (s : State) : State :=
  finish .decodeTime cost (atHandler v s.instPc none s)

/-! ### What an instruction may change -/

/-- The address register that an addressing mode steps (R160). -/
def eaSteps : EA → Option Reg
  | .postInc n | .preDec n => some n
  | _ => none

/-- The operands named by the opcode word, source first. -/
def operandsOf : Instr → List EA
  | .ori _ ea | .andi _ ea | .subi _ ea | .addi _ ea | .eori _ ea | .cmpi _ ea
  | .btstS ea | .bchgS ea | .bclrS ea | .bsetS ea
  | .btstD _ ea | .bchgD _ ea | .bclrD _ ea | .bsetD _ ea
  | .moveaW ea _ | .moveaL ea _ | .moveFromSr ea | .moveToCcr ea | .moveToSr ea
  | .negx _ ea | .clr _ ea | .neg _ ea | .notEa _ ea | .tst _ ea | .nbcd ea | .pea ea
  | .movemWR2M ea | .movemLR2M ea | .tas ea | .movemWM2R ea | .movemLM2R ea
  | .chk _ ea | .lea _ ea | .jsr ea | .jmp ea
  | .addqB _ ea | .addqWL _ _ ea | .subqB _ ea | .subqWL _ _ ea | .scc _ ea
  | .subEaDB _ ea | .subEaDWL _ _ ea | .subDEa _ _ ea | .subaW _ ea | .subaL _ ea
  | .addEaDB _ ea | .addEaDWL _ _ ea | .addDEa _ _ ea | .addaW _ ea | .addaL _ ea
  | .orEaD _ _ ea | .orDEa _ _ ea | .divu _ ea | .divs _ ea
  | .cmpB _ ea | .cmpWL _ _ ea | .cmpaW _ ea | .cmpaL _ ea | .eor _ _ ea
  | .andEaD _ _ ea | .andDEa _ _ ea | .mulu _ ea | .muls _ ea
  | .asrM ea | .aslM ea | .lsrM ea | .lslM ea | .roxrM ea | .roxlM ea | .rorM ea | .rolM ea => [ea]
  | .moveB src dst | .moveW src dst | .moveL src dst => [src, dst]
  | .subxM x _ y | .addxM x _ y => [.preDec y, .preDec x]
  | .sbcdM x y | .abcdM x y => [.preDec y, .preDec x]
  | .cmpm x _ y => [.postInc y, .postInc x]
  | _ => []

/-- The operand that an instruction writes, when the opcode word names one. -/
def destinationOf : Instr → Option EA
  | .ori _ ea | .andi _ ea | .subi _ ea | .addi _ ea | .eori _ ea
  | .bchgS ea | .bclrS ea | .bsetS ea | .bchgD _ ea | .bclrD _ ea | .bsetD _ ea
  | .moveFromSr ea | .negx _ ea | .clr _ ea | .neg _ ea | .notEa _ ea | .nbcd ea | .tas ea
  | .addqB _ ea | .addqWL _ _ ea | .subqB _ ea | .subqWL _ _ ea | .scc _ ea
  | .subDEa _ _ ea | .addDEa _ _ ea | .orDEa _ _ ea | .eor _ _ ea | .andDEa _ _ ea
  | .asrM ea | .aslM ea | .lsrM ea | .lslM ea | .roxrM ea | .roxlM ea | .rorM ea | .rolM ea =>
    some ea
  | .moveB _ dst | .moveW _ dst | .moveL _ dst => some dst
  | .moveaW _ x | .moveaL _ x | .lea x _ | .subaW x _ | .subaL x _ | .addaW x _ | .addaL x _ =>
    some (.areg x)
  | .moveq x _ | .subEaDB x _ | .subEaDWL x _ _ | .addEaDB x _ | .addEaDWL x _ _
  | .orEaD x _ _ | .andEaD x _ _ | .divu x _ | .divs x _ | .mulu x _ | .muls x _
  | .subxR x _ _ | .addxR x _ _ | .sbcdR x _ | .abcdR x _
  | .movepWM2R x _ | .movepLM2R x _ => some (.dreg x)
  | .swap y | .extW y | .extL y | .dbcc _ y
  | .asrR _ _ y | .aslR _ _ y | .lsrR _ _ y | .lslR _ _ y
  | .roxrR _ _ y | .roxlR _ _ y | .rorR _ _ y | .rolR _ _ y => some (.dreg y)
  | .moveFromUsp y | .link y | .unlk y => some (.areg y)
  | .subxM x _ _ | .addxM x _ _ | .sbcdM x _ | .abcdM x _ => some (.preDec x)
  | _ => none

/-- The instruction may write data register `n` (R41). MOVEM's list is in its mask word. -/
def mayWriteD (i : Instr) (n : Reg) : Bool :=
  destinationOf i == some (.dreg n) ||
    match i with
    | .movemWM2R _ | .movemLM2R _ => true
    | .exgDD x y => x == n || y == n
    | .exgDA x _ => x == n
    | _ => false

/-- The instruction pushes or pops on the active stack (R123). -/
def usesStack : Instr → Bool
  | .pea _ | .link _ | .unlk _ | .bsr _ | .jsr _ | .rts | .rtr | .rte => true
  | _ => false

/-- The instruction may write address register `n`: as its destination, by stepping an operand, or
as the stack pointer it pushes or pops with. MOVEM's list is in its mask word. -/
def mayWriteA (i : Instr) (n : Reg) : Bool :=
  destinationOf i == some (.areg n) || (operandsOf i).any (fun ea => eaSteps ea == some n)
    || (usesStack i && n == 7) ||
    match i with
    | .movemWM2R _ | .movemLM2R _ => true
    | .exgAA x y => x == n || y == n
    | .exgDA _ y => y == n
    | _ => false

/-- The rows of R172. -/
def isPrivileged : Instr → Bool
  | .andiSr | .oriSr | .eoriSr | .moveToSr _ | .moveToUsp _ | .moveFromUsp _ | .reset | .rte
  | .stop => true
  | _ => false

/-- The instruction writes all of SR (R464-R466, R468, R472, R475). -/
def writesSr : Instr → Bool
  | .andiSr | .oriSr | .eoriSr | .moveToSr _ | .rte | .stop => true
  | _ => false

/-- The instruction changes no condition code (R202, R204-R210, R212, R213, R253, R260, R421-R428,
R430, R431, R469-R471, R474; ADDQ and SUBQ to an address register R255, R262). -/
def keepsFlags : Instr → Bool
  | .moveaW _ _ | .moveaL _ _ | .movemWR2M _ | .movemLR2M _ | .movemWM2R _ | .movemLM2R _
  | .movepWM2R _ _ | .movepLM2R _ _ | .movepWR2M _ _ | .movepLR2M _ _ | .lea _ _ | .pea _
  | .exgDD _ _ | .exgAA _ _ | .exgDA _ _ | .link _ | .unlk _
  | .addaW _ _ | .addaL _ _ | .subaW _ _ | .subaL _ _
  | .bcc _ _ | .bra _ | .bsr _ | .dbcc _ _ | .scc _ _ | .jmp _ | .jsr _ | .rts | .nop | .trapv
  | .moveFromSr _ | .moveToUsp _ | .moveFromUsp _ | .reset
  | .addqWL _ _ (.areg _) | .subqWL _ _ (.areg _) => true
  | _ => false

/-- The instruction may change X: the additions, subtractions, negations, shifts through X or out
into X, decimal operations, and the writes of the whole CCR or SR (R52-R55, R351-R366). -/
def mayChangeX : Instr → Bool
  | .addEaDB _ _ | .addEaDWL _ _ _ | .addDEa _ _ _ | .addi _ _ | .addqB _ _ | .addqWL _ _ _
  | .addxR _ _ _ | .addxM _ _ _ | .subEaDB _ _ | .subEaDWL _ _ _ | .subDEa _ _ _ | .subi _ _
  | .subqB _ _ | .subqWL _ _ _ | .subxR _ _ _ | .subxM _ _ _ | .neg _ _ | .negx _ _
  | .abcdR _ _ | .abcdM _ _ | .sbcdR _ _ | .sbcdM _ _ | .nbcd _
  | .aslR _ _ _ | .aslM _ | .asrR _ _ _ | .asrM _ | .lslR _ _ _ | .lslM _ | .lsrR _ _ _ | .lsrM _
  | .roxlR _ _ _ | .roxlM _ | .roxrR _ _ _ | .roxrM _
  | .andiCcr | .oriCcr | .eoriCcr | .moveToCcr _ | .rtr
  | .andiSr | .oriSr | .eoriSr | .moveToSr _ | .rte | .stop => true
  | _ => false

/-- A bit operation changes Z only (R380). -/
def changesZOnly : Instr → Bool
  | .btstS _ | .bchgS _ | .bclrS _ | .bsetS _ | .btstD _ _ | .bchgD _ _ | .bclrD _ _
  | .bsetD _ _ => true
  | _ => false

/-- The places in memory that a body answers. -/
def sitesOf (body : Exec (List (Size × Long))) (s : State) : List (Size × Long) :=
  match body s with
  | .ok l _ => l
  | .error _ _ => []

/-- The place of one operand, when it is in memory. -/
def siteOfLoc (sz : Size) : Loc → List (Size × Long)
  | .mem a => [(sz, a)]
  | _ => []

/-- The place of the operand resolved after `before` has run. -/
def siteOfEa (before : Exec Unit) (sz : Size) (ea : EA) : Exec (List (Size × Long)) := do
  before
  let loc ← resolveEa sz ea
  pure (siteOfLoc sz loc)

/-- A body run for its effect on the state alone. -/
def ignoring {α : Type} (body : Exec α) : Exec Unit := do
  let _ ← body
  pure ()

/-- The long below the active stack pointer, after `before` has run. -/
def siteOfPush (before : Exec Unit) : Exec (List (Size × Long)) := do
  before
  let sp ← look State.activeSp
  pure [(.l, sp - 4)]

/-- The elements that MOVEM stores (R204). -/
def sitesOfMovem (sz : Size) (ea : EA) : Exec (List (Size × Long)) := do
  let mask ← fetchWord
  match ea with
  | .preDec r => do
    let start ← loadA r
    pure ((List.range (maskCount mask)).map fun k =>
      (sz, start - BitVec.ofNat 32 ((k + 1) * bytesOf sz)))
  | _ => do
    let loc ← resolveEa sz ea
    let start ← addrOf loc
    pure ((List.range (maskCount mask)).map fun k => (sz, elementAddr sz start k))

/-- The bytes that MOVEP stores (R207). -/
def sitesOfMovep (n : Nat) (y : Reg) : Exec (List (Size × Long)) := do
  let a ← movepAddr y
  pure ((List.range n).map fun k => (.b, alternateAddr a k))

/-- The places an instruction stores to, computed by the functions its meaning uses, in the states
it uses them in. -/
def storeSites (i : Instr) (s : State) : List (Size × Long) :=
  match i with
  | .ori sz ea | .andi sz ea | .subi sz ea | .addi sz ea | .eori sz ea =>
    sitesOf (siteOfEa (ignoring (immediate sz)) sz ea) s
  | .bchgS ea | .bclrS ea | .bsetS ea =>
    sitesOf (siteOfEa (ignoring staticBit) (bitSize ea) ea) s
  | .bchgD _ ea | .bclrD _ ea | .bsetD _ ea => sitesOf (siteOfEa (pure ()) (bitSize ea) ea) s
  | .moveB src dst => sitesOf (siteOfEa (ignoring (source .b src)) .b dst) s
  | .moveW src dst => sitesOf (siteOfEa (ignoring (source .w src)) .w dst) s
  | .moveL src dst => sitesOf (siteOfEa (ignoring (source .l src)) .l dst) s
  | .moveFromSr ea => sitesOf (siteOfEa (pure ()) .w ea) s
  | .negx sz ea | .clr sz ea | .neg sz ea | .notEa sz ea | .addqWL _ sz ea | .subqWL _ sz ea
  | .subDEa _ sz ea | .addDEa _ sz ea | .orDEa _ sz ea | .eor _ sz ea | .andDEa _ sz ea =>
    sitesOf (siteOfEa (pure ()) sz ea) s
  | .nbcd ea | .tas ea | .scc _ ea | .addqB _ ea | .subqB _ ea =>
    sitesOf (siteOfEa (pure ()) .b ea) s
  | .asrM ea | .aslM ea | .lsrM ea | .lslM ea | .roxrM ea | .roxlM ea | .rorM ea | .rolM ea =>
    sitesOf (siteOfEa (pure ()) .w ea) s
  | .subxM x sz y | .addxM x sz y =>
    sitesOf (siteOfEa (ignoring (readPreDec sz y)) sz (.preDec x)) s
  | .sbcdM x y | .abcdM x y => sitesOf (siteOfEa (ignoring (readPreDec .b y)) .b (.preDec x)) s
  | .movemWR2M ea => sitesOf (sitesOfMovem .w ea) s
  | .movemLR2M ea => sitesOf (sitesOfMovem .l ea) s
  | .movepWR2M _ y => sitesOf (sitesOfMovep 2 y) s
  | .movepLR2M _ y => sitesOf (sitesOfMovep 4 y) s
  | .pea ea | .jsr ea => sitesOf (siteOfPush (ignoring (resolveEa .l ea))) s
  | .link _ => sitesOf (siteOfPush (ignoring fetchDisp)) s
  | .bsr d8 => sitesOf (siteOfPush (ignoring (branchDisp d8))) s
  | _ => []

/-! ### Invariant (R72) -/

/-- FC is one of the codes of R120 that the core drives. -/
def legalFc (fc : BitVec 3) : Bool := fc == 1 || fc == 2 || fc == 5 || fc == 6 || fc == 7

/-- What every step keeps: memory is in canonical form; SR and its rollback copy have no
unimplemented bit (R47, R72); FC is a code of R120 while it is emulated (R58, R72); GROUP0 lasts
only in a double fault (R62, R525); no trace is pending between steps (R571). -/
structure Inv (s : State) : Prop where
  mem : s.mem.wf = true
  sr : s.sr &&& ~~~srMask = 0
  savedSr : s.saved.sr &&& ~~~srMask = 0
  fc : s.cfg.fcEmulation = true → legalFc s.fc = true
  runMode : s.runMode = .group0 → s.doubleFault = true
  trace : s.tracePending = false

end Sys2Proof.Machine
end

