-- ==== Sys2Proof/Certificates/Slice0/Obligations.lean ====
section
/-!
DEFINITION. The statements for the provers, from the spec's numbered rules. `Reaches o u` says that
an outcome is a next state equal to `u` in every field but FC and the record of callback calls, so
each such statement is a result, a frame and a completion at once. The costs in them are read
from the parameter CYCLES of the state's configuration (R630, log 5), whatever it holds.
-/

open Sys2Proof Sys2Proof.Machine

/-! ### Encoding -/

/-- R150, R166-R171: decoding the opcode word of a well-formed instruction gives it back, with every
operand field at every value. -/
def Obligations.DecodeOfEncode : Prop :=
  ∀ i : Instr, i.wf = true → decode (encode i) = .ok i

/-- R171: each word that decodes is the opcode word of a well-formed instruction, and of no other;
the words that do not decode are refused by one name. -/
def Obligations.EncodeOfDecode : Prop :=
  ∀ w : Word, (∀ i, decode w = .ok i → encode i = w ∧ i.wf = true) ∧
    (∀ e, decode w = .error e → e = .unassigned ∧ ∀ i : Instr, i.wf = true → encode i ≠ w)

/-- A few opcode words of the spec's examples, read by the decoder. -/
def Obligations.SpecWordsDecode : Prop :=
  decode 0x303C = .ok (.moveW .imm (.dreg 0)) ∧
  decode 0x48E7 = .ok (.movemLR2M (.preDec 7)) ∧
  decode 0xD149 = .ok (.addxM 0 .w 1) ∧
  decode 0xE2A0 = .ok (.asrR (.reg 1) .l 0) ∧
  decode 0x0390 = .ok (.bclrD 1 (.ind 0)) ∧
  decode 0xC38A = .ok (.exgDA 1 2) ∧
  decode 0x51C9 = .ok (.dbcc .f 1) ∧
  decode 0x4E7A = .error .unassigned

/-! ### Arithmetic of the flag rules -/

/-- R52, R53: the result, C and V of an addition and of a subtraction, V by both forms of each
rule. R55, R320: the flags of a logical result. -/
def Obligations.AdditionAndSubtractionFlags : Prop :=
  (∀ (sz : Size) (d s : Long) (x : Bool),
    (let r := addValue sz d s x
     let f := addFlags sz d s x
     r.toNat = ((trunc sz d).toNat + (trunc sz s).toNat + x.toNat) % 2 ^ bitsOf sz ∧
     f.c = decide ((trunc sz d).toNat + (trunc sz s).toNat + x.toNat ≥ 2 ^ bitsOf sz) ∧
     f.v = decide (signedOf sz d + signedOf sz s + x.toInt ≠ signedOf sz r) ∧
     f.v = ((msbOf sz s && msbOf sz d && !msbOf sz r) ||
       (!msbOf sz s && !msbOf sz d && msbOf sz r)) ∧
     f.n = msbOf sz r ∧ f.z = decide (r = 0) ∧ f.x = f.c) ∧
    (let r := subValue sz d s x
     let f := subFlags sz d s x
     (r.toNat : Int) =
       ((trunc sz d).toNat - (trunc sz s).toNat - x.toInt) % (2 ^ bitsOf sz : Int) ∧
     f.c = decide ((trunc sz d).toNat < (trunc sz s).toNat + x.toNat) ∧
     f.v = decide (signedOf sz d - signedOf sz s - x.toInt ≠ signedOf sz r) ∧
     f.v = ((!msbOf sz s && msbOf sz d && !msbOf sz r) ||
       (msbOf sz s && !msbOf sz d && msbOf sz r)) ∧
     f.n = msbOf sz r ∧ f.z = decide (r = 0) ∧ f.x = f.c)) ∧
  (∀ (sz : Size) (r : Long) (x : Bool),
    let f := logicFlags x sz r
    f.n = r.getLsbD (bitsOf sz - 1) ∧ (f.z = true ↔ r.toNat % 2 ^ bitsOf sz = 0) ∧
    f.v = false ∧ f.c = false ∧ f.x = x)

/-- R351, R353: ASL and LSL multiply by a power of 2 modulo the width, with the bit shifted out last
in C and X; V of ASL is set when the most significant bit changed at any time during the shift, and
V of LSL is clear. R352, R354: ASR divides the signed operand and LSR the
unsigned one by a power of 2, rounding down, with the bit shifted out last in C and X. R355-R358: a
rotation by n + 1 is a rotation by n and then by one, which moves one bit round; through X, the
extend bit goes round with the operand. Every rotation clears V and takes N and Z from its result; a
plain one keeps X. -/
def Obligations.ShiftAndRotateRules : Prop :=
  (∀ (sz : Size) (d : Long) (n : Nat), 1 ≤ n → n < 64 →
    ((aslFlags sz d n).v = true ↔ ∃ k, k ≤ n ∧ msbOf sz (d <<< k) ≠ msbOf sz d) ∧
    (let r := aslValue sz d n
     let f := aslFlags sz d n
     r.toNat = d.toNat * 2 ^ n % 2 ^ bitsOf sz ∧
     f.c = msbOf sz (aslValue sz d (n - 1)) ∧
     f.c = (if n ≤ bitsOf sz then d.getLsbD (bitsOf sz - n) else false) ∧
     f.x = f.c ∧ f.n = msbOf sz r ∧ f.z = decide (r = 0) ∧
     lslFlags sz d n = { f with v := false })) ∧
  (∀ (sz : Size) (d : Long) (n : Nat), 1 ≤ n → n < 64 → trunc sz d = d →
    (let r := asrValue sz d n
     let f := asrFlags sz d n
     trunc sz r = r ∧ signedOf sz r = signedOf sz d / 2 ^ n ∧
     f.c = (if n ≤ bitsOf sz then d.getLsbD (n - 1) else msbOf sz d) ∧
     f.x = f.c ∧ f.v = false ∧ f.n = msbOf sz r ∧ f.z = decide (r = 0)) ∧
    (let r := lsrValue sz d n
     let f := lsrFlags sz d n
     r.toNat = d.toNat / 2 ^ n ∧
     f.c = (if n ≤ bitsOf sz then d.getLsbD (n - 1) else false) ∧
     f.x = f.c ∧ f.v = false ∧ f.n = false ∧ f.z = decide (r = 0))) ∧
  (∀ (sz : Size) (d : Long) (x : Bool), trunc sz d = d →
    let top := bitsOf sz - 1
    let bit := fun (b : Bool) (k : Nat) => (BitVec.ofBool b).setWidth 32 <<< k
    rolValue sz d 1 = (trunc sz (d <<< 1) ||| bit (msbOf sz d) 0) ∧
    rorValue sz d 1 = (d >>> 1 ||| bit (d.getLsbD 0) top) ∧
    roxValue sz (roxlBits x sz d 1) = (trunc sz (d <<< 1) ||| bit x 0) ∧
    (roxFlags sz (roxlBits x sz d 1)).x = msbOf sz d ∧
    roxValue sz (roxrBits x sz d 1) = (d >>> 1 ||| bit x top) ∧
    (roxFlags sz (roxrBits x sz d 1)).x = d.getLsbD 0) ∧
  (∀ (sz : Size) (d : Long) (x : Bool) (n : Nat), 1 ≤ n → trunc sz d = d →
    (let r := rolValue sz d n
     let f := rolFlags x sz d n
     f.c = r.getLsbD 0 ∧ f.v = false ∧ f.n = msbOf sz r ∧ f.z = decide (r = 0) ∧ f.x = x) ∧
    (let r := rorValue sz d n
     let f := rorFlags x sz d n
     f.c = msbOf sz r ∧ f.v = false ∧ f.n = msbOf sz r ∧ f.z = decide (r = 0) ∧ f.x = x) ∧
    rolValue sz d (n + 1) = rolValue sz (rolValue sz d n) 1 ∧
    rorValue sz d (n + 1) = rorValue sz (rorValue sz d n) 1 ∧
    (let w := roxlBits x sz d n
     roxlBits x sz d (n + 1) = roxlBits (roxFlags sz w).x sz (roxValue sz w) 1) ∧
    (let w := roxrBits x sz d n
     roxrBits x sz d (n + 1) = roxrBits (roxFlags sz w).x sz (roxValue sz w) 1)) ∧
  (∀ (sz : Size) (w : BitVec 33),
    let r := roxValue sz w
    let f := roxFlags sz w
    f.c = f.x ∧ f.v = false ∧ f.n = msbOf sz r ∧ f.z = decide (r = 0))

/-- R400, on valid operands (the others are BCD_INVALID, log 3): a decimal operation gives a valid
byte, and the carry makes up for what the two digits cannot hold. -/
def Obligations.DecimalResults : Prop :=
  ∀ (s d : Byte) (x : Bool), bcdValid s = true → bcdValid d = true →
    (let r := bcdResult .abcd s d x
     bcdValid r.1 = true ∧
     (bcdToNat r.1 : Int) + 100 * r.2.toInt = bcdToNat d + bcdToNat s + x.toInt) ∧
    (let r := bcdResult .sbcd s d x
     bcdValid r.1 = true ∧
     (bcdToNat r.1 : Int) - 100 * r.2.toInt = bcdToNat d - bcdToNat s - x.toInt) ∧
    (let r := bcdResult .nbcd 0 d x
     bcdValid r.1 = true ∧ (bcdToNat r.1 : Int) - 100 * r.2.toInt = 0 - bcdToNat d - x.toInt)

/-- R275-R278: the products are exact; a quotient and remainder satisfy the division identity with
the remainder below the divisor and on the dividend's side; the overflow is the quotient that does
not fit. -/
def Obligations.MultiplyAndDivide : Prop :=
  (∀ d s : Long, (muluValue d s).toNat = (trunc .w d).toNat * (trunc .w s).toNat) ∧
  (∀ d s : Long, (mulsValue d s).toInt = signedOf .w d * signedOf .w s) ∧
  (∀ (d : Long) (s : Word) (rem q : Word), s ≠ 0 → divuResult d s = some (rem, q) →
    d.toNat = q.toNat * s.toNat + rem.toNat ∧ rem.toNat < s.toNat) ∧
  (∀ (d : Long) (s : Word), s ≠ 0 → (divuResult d s = none ↔ 0x10000 * s.toNat ≤ d.toNat)) ∧
  (∀ (d : Long) (s : Word) (rem q : Word), s ≠ 0 → divsResult d s = some (rem, q) →
    d.toInt = q.toInt * s.toInt + rem.toInt ∧ rem.toInt.natAbs < s.toInt.natAbs ∧
    (rem = 0 ∨ (rem.toInt < 0 ↔ d.toInt < 0))) ∧
  (∀ (d : Long) (s : Word), s ≠ 0 →
    (divsResult d s = none ↔
      (d.toInt.tdiv s.toInt < -32768 ∨ 32767 < d.toInt.tdiv s.toInt)))

/-! ### Registers, SR and memory -/

/-- R41, R43: a sized write to a data register keeps the bits above the size; a write to an address
register replaces all 32; neither touches another register. R49, R42: SetSR keeps the implemented
bits, and the active stack pointer is the one of the new mode, the other kept. -/
def Obligations.RegisterWrites : Prop :=
  (∀ (s : State) (sz : Size) (n m : Reg) (v : Long),
    trunc sz ((s.mergeD sz n v).readD n) = trunc sz v ∧
    ((s.mergeD sz n v).readD n) >>> bitsOf sz = s.readD n >>> bitsOf sz ∧
    (m ≠ n → (s.mergeD sz n v).readD m = s.readD m) ∧ (s.mergeD sz n v).readA m = s.readA m) ∧
  (∀ (s : State) (n m : Reg) (v : Long),
    (s.writeA n v).readA n = v ∧ (m ≠ n → (s.writeA n v).readA m = s.readA m) ∧
    (s.writeA n v).readD m = s.readD m ∧ (s.writeA n v).sr = s.sr ∧
    (n ≠ 7 → (s.writeA n v).usp = s.usp ∧ (s.writeA n v).ssp = s.ssp) ∧
    (s.flagS = true → (s.writeA n v).usp = s.usp) ∧
    (s.flagS = false → (s.writeA n v).ssp = s.ssp)) ∧
  (∀ (s : State) (v : Word),
    (s.setSr v).sr = v &&& 0xA71F ∧
    (s.setSr v).readA 7 = (if v.getLsbD 13 then s.ssp else s.usp) ∧
    (s.setSr v).usp = s.usp ∧ (s.setSr v).ssp = s.ssp ∧ (s.setSr v).a = s.a ∧ (s.setSr v).d = s.d)

/-- R102, R106, R110, R111: a store puts the bytes of the value at the addresses from its own up, high
byte first, and changes no other byte; a load of the same place answers the value.
R114, R116, R120: with the default fc_change, a completed access answers what memory holds and drives
its function code, the data code or the program code of the mode, and nothing else; whatever the
callbacks do, that code is what FC holds after it.
R103: a byte or word access through a hook calls it with the 24-bit address (and the value stored);
a read answers the low bits of the hook's answer, whose host moves are applied (R583); without an
answer to come the value is free (log 1). R104: a long access is two word accesses, high word first,
in every kind of region. -/
def Obligations.StoreThenLoad : Prop :=
  (∀ (s : State) (ph : Phase) (sz : Size) (a v : Long), quiet s = true →
    s.mem.wf = true → accessible s sz a = true → (ph = .instruction → clearOf s.pc a sz = true) →
    ∃ t, memWrite ph sz a v s = .ok () t ∧ SameButBus t (putMem sz a v s) ∧
      (∀ b : Addr, b ∉ bytesFrom a (bytesOf sz) → t.mem.read b.toNat = s.mem.read b.toNat) ∧
      (∀ k, k < bytesOf sz →
        t.mem.read (busAddr a + BitVec.ofNat 24 k).toNat = (valueBytes sz v).getD k 0) ∧
      ∃ u, memRead ph sz a t = .ok (trunc sz v) u ∧ SameButBus u t) ∧
  (∀ (s : State) (ph : Phase) (sz : Size) (a v : Long), quiet s = true →
    let data : BitVec 3 := if s.flagS then 5 else 1
    let program : BitVec 3 := if s.flagS then 6 else 2
    (accessible s sz a = true →
      memRead ph sz a s = .ok (valueAt s sz a) (driven data s) ∧
      memReadPc sz a s = .ok (valueAt s sz a) (driven program s) ∧
      ((ph = .instruction → clearOf s.pc a sz = true) →
        memWrite ph sz a v s = .ok () (putMem sz a v (driven data s)))) ∧
    (fetchable s s.pc 1 = true →
      fetchWord s = .ok (wordAt s s.pc) (skipWords 1 (driven program s)))) ∧
  (∀ (s t : State) (ph : Phase) (sz : Size) (a v w : Long) (x : Word),
    let data : BitVec 3 := if s.flagS then 5 else 1
    let program : BitVec 3 := if s.flagS then 6 else 2
    let left := fun (fc : BitVec 3) => t.fc = if s.cfg.fcEmulation then fc else s.fc
    (memRead ph sz a s = .ok w t → left data) ∧ (memWrite ph sz a v s = .ok () t → left data) ∧
    (memReadPc sz a s = .ok w t → left program) ∧ (fetchWord s = .ok x t → left program)) ∧
  (∀ (s : State) (ph : Phase) (sz : Size) (a v : Long), s.handlers.fcChange = .default →
    sz ≠ .l → misaligned sz a = false →
    let u := driven (if s.flagS then 5 else 1) s
    let b := busAddr a
    let readCall : Call := if sz = .b then .read8 b else .read16 b
    let writeCall : Call := if sz = .b then .write8 b (v.setWidth 8) else .write16 b (v.setWidth 16)
    let called := fun (c : Call) => { u with calls := u.calls ++ [c] }
    (∀ (ans : Answer) (rest : List Answer), s.script = ans :: rest →
      let answered := fun (c : Call) => applyMoves ans.moves { called c with script := rest }
      (hooked s sz .read a = true →
        (∀ t, answered readCall = .ok () t → memRead ph sz a s = .ok (trunc sz ans.value) t) ∧
        (∀ e t, answered readCall = .error e t → memRead ph sz a s = .error e t)) ∧
      (hooked s sz .write a = true → (ph = .instruction → clearOf s.pc a sz = true) →
        (∀ t, answered writeCall = .ok () t → memWrite ph sz a v s = .ok () t) ∧
        (∀ e t, answered writeCall = .error e t → memWrite ph sz a v s = .error e t))) ∧
    (s.script = [] →
      (hooked s sz .read a = true → ∃ w, memRead ph sz a s =
        .ok (trunc sz w) { called readCall with draws := s.draws + 1 }) ∧
      (hooked s sz .write a = true → (ph = .instruction → clearOf s.pc a sz = true) →
        memWrite ph sz a v s = .ok () { called writeCall with draws := s.draws + 1 }))) ∧
  (∀ (s : State) (ph : Phase) (a v : Long), misaligned .l a = false →
    memRead ph .l a s = (do
      let hi ← memRead ph .w a
      let lo ← memRead ph .w (a + 2)
      pure (hi.extractLsb' 0 16 ++ lo.extractLsb' 0 16)) s ∧
    ((ph = .instruction → clearOf s.pc a .l = true) →
      memWrite ph .l a v s = (do
        memWrite ph .w a (v >>> 16)
        memWrite ph .w (a + 2) v) s))

/-- R160-R163, R165: every operand that can be resolved and read is resolved with its side effects
and worth what the rules say. -/
def Obligations.OperandsResolveAndRead : Prop :=
  ∀ (s : State) (sz : Size) (ea : EA), quiet s = true → readable s sz ea = true →
    ∃ t, source sz ea s = .ok (operand s sz ea) t ∧ SameButBus t (afterEa s sz ea)

/-- R110-R113, R520: a word or long access of data space at an odd address is an address error: it
reads and stores nothing, and the fault fields are all that changes; no other access raises one.
R114, R571: a fetch at an odd pc is an address error with the program code of the mode; that its
aerr_instr is true at the opcode fetch is the model's reading (log 24). -/
def Obligations.OddAddressesAreAddressErrors : Prop :=
  (∀ (s : State) (ph : Phase) (sz : Size) (a v : Long),
    let odd := fun (write : Bool) => { s with
      aerrAddress := a, aerrWrite := write, aerrInstr := ph == .instruction
      aerrFc := if s.flagS then 5 else 1 }
    (sz ≠ .b → a.getLsbD 0 = true →
      memRead ph sz a s = .error .addressError (odd false) ∧
      memWrite ph sz a v s = .error .addressError (odd true)) ∧
    (∀ t, memRead ph sz a s = .error .addressError t → sz ≠ .b ∧ a.getLsbD 0 = true) ∧
    (∀ t, memWrite ph sz a v s = .error .addressError t → sz ≠ .b ∧ a.getLsbD 0 = true)) ∧
  (∀ (s : State) (sz : Size) (ea : EA), quiet s = true → resolvable s sz ea = true →
    inMemory ea = true → ea ≠ .pcDisp → ea ≠ .pcIndex → misaligned sz (eaAddr s sz ea) = true →
    ∃ t, source sz ea s = .error .addressError t ∧
      SameButBus t { afterEa s sz ea with
        aerrAddress := eaAddr s sz ea, aerrWrite := false, aerrInstr := true
        aerrFc := if s.flagS then 5 else 1 }) ∧
  (∀ s : State, s.pc.getLsbD 0 = true →
    fetchWord s = .error .addressError { s with
      aerrAddress := s.pc, aerrWrite := false, aerrInstr := true
      aerrFc := if s.flagS then 6 else 2 } ∧
    fetchOpcode s = .error .addressError { s with
      instPc := s.pc, tracePending := s.cfg.emulateTrace && s.flagT
      aerrAddress := s.pc, aerrWrite := false, aerrInstr := true
      aerrFc := if s.flagS then 6 else 2 })

/-- R105: a data access of any size whose bytes, or whose half of a long, lie in a region that does
not serve its width and direction is the fault `unmapped` of that access. R114, R116: the faults of
fetches and PC-relative reads. R130: a store with a byte in the next two words, or of BSR and JSR in
the first two words of the target, is the fault `prefetchHazard` of its first such byte. The order
of the checks in a PC-relative read and in a store is the model's choice (log 17, 19). -/
def Obligations.ModelFaultsOfAccesses : Prop :=
  (∀ (s : State) (ph : Phase) (sz : Size) (a v : Long), quiet s = true →
    misaligned sz a = false →
    let width := if sz = .b then 1 else 2
    (serves (s.region (busAddr a)) sz .read = false →
      ∃ t, memRead ph sz a s = .error (.fault (.unmapped (busAddr a) width .read)) t) ∧
    (serves (s.region (busAddr a)) sz .write = false →
      ∃ t, memWrite ph sz a v s = .error (.fault (.unmapped (busAddr a) width .write)) t) ∧
    (sz = .l → backed s a = true ∨ s.script = [] →
      (serves (s.region (busAddr a)) .l .read = true →
        serves (s.region (busAddr (a + 2))) .l .read = false →
        ∃ t, memRead ph .l a s = .error (.fault (.unmapped (busAddr (a + 2)) 2 .read)) t) ∧
      (serves (s.region (busAddr a)) .l .write = true →
        serves (s.region (busAddr (a + 2))) .l .write = false →
        ∃ t, memWrite ph .l a v s = .error (.fault (.unmapped (busAddr (a + 2)) 2 .write)) t))) ∧
  (∀ (s : State) (sz : Size) (a : Long), quiet s = true →
    (misaligned sz a = true → ∃ t, memReadPc sz a s = .error (.fault (.pcRelMisaligned a)) t) ∧
    (misaligned sz a = false → backed s a = false →
      ∃ t, memReadPc sz a s = .error (.fault (.fetchNotPointerBacked a)) t) ∧
    (misaligned sz a = false → sz = .l → backed s a = true → backed s (a + 2) = false →
      ∃ t, memReadPc sz a s = .error (.fault (.fetchNotPointerBacked (a + 2))) t) ∧
    (s.pc.getLsbD 0 = false → backed s s.pc = false →
      ∃ t, fetchWord s = .error (.fault (.fetchNotPointerBacked s.pc)) t)) ∧
  (∀ (s : State) (sz : Size) (a v : Long) (x : Addr), quiet s = true → misaligned sz a = false →
    serves (s.region (busAddr a)) sz .write = true →
    (sz = .l → serves (s.region (busAddr (a + 2))) sz .write = true) →
    accessible s sz a = true ∨ s.script = [] →
    (bytesFrom a (bytesOf sz)).find? (inWindow s.pc) = some x →
    ∃ t, memWrite .instruction sz a v s = .error (.fault (.prefetchHazard x)) t) ∧
  (∀ (s : State) (ea : EA) (d8 : Byte) (x : Addr), quiet s = true →
    let sp := s.activeSp - 4
    (let p := afterEa s .l ea
     let a := eaAddr s .l ea
     ea.inClass .ctrl = true → resolvable s .l ea = true → storable s p.pc .l sp = true →
     (bytesFrom sp 4).find? (inWindow a) = some x →
     exec (.jsr ea) s = .fault (.prefetchHazard x)) ∧
    (let long := d8 == 0
     let disp : Long := if long then (wordAt s s.pc).signExtend 32 else d8.signExtend 32
     let next := if long then skipWords 1 s else s
     (long = true → fetchable s s.pc 1 = true) → storable s next.pc .l sp = true →
     (bytesFrom sp 4).find? (inWindow (s.pc + disp)) = some x →
     exec (.bsr d8) s = .fault (.prefetchHazard x)))

/-! ### Data movement -/

/-- R201, R632: MOVE, the source read before the destination is resolved. -/
def Obligations.MoveCopiesTheOperand : Prop :=
  ∀ (s : State) (sz : Size) (src dst : EA) (i : Instr), quiet s = true →
    (i, sz) ∈ [(.moveB src dst, Size.b), (.moveW src dst, .w), (.moveL src dst, .l)] →
    dst.inClass .dalt = true → readable s sz src = true →
    (let p := afterEa s sz src
     writable p sz dst = true →
     Reaches (exec i s) (completes (moveTime sz src dst)
       ((putOperand p sz dst (operand s sz src) (afterEa p sz dst)).setFlags
         (logicFlags s.flagX sz (operand s sz src)))))

/-- R202, R253, R260, R266: the operations on a whole address register, a word source
sign-extended; only CMPA sets flags. -/
def Obligations.AddressRegisterOperations : Prop :=
  ∀ (s : State) (x : Reg) (ea : EA) (sz : Size), quiet s = true → sz ≠ .b →
    readable s sz ea = true →
    let p := afterEa s sz ea
    let v := sext sz (operand s sz ea)
    Reaches (exec (if sz = .l then .moveaL ea x else .moveaW ea x) s)
      (completes (moveTime sz ea (.areg x)) (p.writeA x v)) ∧
    Reaches (exec (if sz = .l then .addaL x ea else .addaW x ea) s)
      (completes (toAddrTime sz ea) (p.writeA x (p.readA x + v))) ∧
    Reaches (exec (if sz = .l then .subaL x ea else .subaW x ea) s)
      (completes (toAddrTime sz ea) (p.writeA x (p.readA x - v))) ∧
    Reaches (exec (if sz = .l then .cmpaL x ea else .cmpaW x ea) s)
      (completes (cmpaTime sz ea)
        (p.setFlags { subFlags .l (p.readA x) v false with x := s.flagX }))

/-- R203, R210, R211, R273, R274: the operations on registers alone, whole. -/
def Obligations.RegisterOnlyMoves : Prop :=
  ∀ (s : State) (x y : Reg) (d8 : Byte),
    exec (.moveq x d8) s = .next (completes (·.immediate.moveq)
      ((s.writeD x (d8.signExtend 32)).setFlags (logicFlags s.flagX .l (d8.signExtend 32)))) ∧
    exec (.exgDD x y) s = .next (completes (·.misc.exg) ((s.writeD x (s.readD y)).writeD y (s.readD x))) ∧
    exec (.exgAA x y) s = .next (completes (·.misc.exg) ((s.writeA x (s.readA y)).writeA y (s.readA x))) ∧
    exec (.exgDA x y) s = .next (completes (·.misc.exg) ((s.writeD x (s.readA y)).writeA y (s.readD x))) ∧
    (let v : Long := (s.readD y).extractLsb' 0 16 ++ (s.readD y).extractLsb' 16 16
     exec (.swap y) s =
       .next (completes (·.misc.swap) ((s.writeD y v).setFlags (logicFlags s.flagX .l v)))) ∧
    (let v : Word := ((s.readD y).setWidth 8).signExtend 16
     exec (.extW y) s = .next (completes (·.misc.ext)
       ((s.writeD y ((s.readD y).extractLsb' 16 16 ++ v)).setFlags
         (logicFlags s.flagX .w (v.setWidth 32))))) ∧
    (let v : Long := ((s.readD y).setWidth 16).signExtend 32
     exec (.extL y) s =
       .next (completes (·.misc.ext) ((s.writeD y v).setFlags (logicFlags s.flagX .l v))))

/-- R204, R640: MOVEM to memory: the predecrement form stores downwards and writes the address
register once, at the end, with the register's first value stored when it is in the list. -/
def Obligations.MovemStoresRegisters : Prop :=
  ∀ (s : State) (sz : Size) (ea : EA), quiet s = true → s.mem.wf = true → sz ≠ .b →
    ea.inClass .movemRM = true → fetchable s s.pc 1 = true →
    let mask := wordAt s s.pc
    let s1 := skipWords 1 s
    let n := maskCount mask
    let i : Instr := if sz = .l then .movemLR2M ea else .movemWR2M ea
    (∀ r, ea = .preDec r →
      let rs := maskOrder.filter fun k => mask.getLsbD (15 - k.val)
      let a := s.readA r - BitVec.ofNat 32 (n * bytesOf sz)
      storableList s s1.pc sz a n = true →
      Reaches (exec i s) (completes (movemTime false sz ea n)
        ((putList sz a (rs.map fun k => trunc sz (s.readR k)) s1).writeA r a))) ∧
    ((∀ r, ea ≠ .preDec r) → resolvable s1 sz ea = true →
      let a := eaAddr s1 sz ea
      let s2 := afterEa s1 sz ea
      storableList s s2.pc sz a n = true →
      Reaches (exec i s) (completes (movemTime false sz ea n)
        (putList sz a ((maskRegs mask).map fun k => trunc sz (s.readR k)) s2)))

/-- R205, R640: MOVEM to registers: a word is sign-extended; the postincrement form ends with the
address past the last element in the address register, over a value loaded into it. -/
def Obligations.MovemLoadsRegisters : Prop :=
  ∀ (s : State) (sz : Size) (ea : EA), quiet s = true → sz ≠ .b → ea.inClass .movemMR = true →
    fetchable s s.pc 1 = true →
    let mask := wordAt s s.pc
    let s1 := skipWords 1 s
    let n := maskCount mask
    let i : Instr := if sz = .l then .movemLM2R ea else .movemWM2R ea
    (∀ r, ea = .postInc r →
      let a := s.readA r
      readableList s sz a n = true →
      (s.cfg.dummyReads = true → accessible s .w (elementAddr sz a n) = true) →
      Reaches (exec i s) (completes (movemTime true sz ea n)
        ((loadList s sz a (maskRegs mask) s1).writeA r (elementAddr sz a n)))) ∧
    ((∀ r, ea ≠ .postInc r) → resolvable s1 sz ea = true →
      let a := eaAddr s1 sz ea
      readableList s sz a n = true →
      (s.cfg.dummyReads = true → accessible s .w (elementAddr sz a n) = true) →
      Reaches (exec i s) (completes (movemTime true sz ea n)
        (loadList s sz a (maskRegs mask) (afterEa s1 sz ea))))

/-- R206, R207: MOVEP moves single bytes at every other address, the high byte first. -/
def Obligations.MovepMovesAlternateBytes : Prop :=
  ∀ (s : State) (x y : Reg), quiet s = true → fetchable s s.pc 1 = true →
    let a := s.readA y + (wordAt s s.pc).signExtend 32
    let p := skipWords 1 s
    let byteAt := fun k => s.mem.read (busAddr (alternateAddr a k)).toNat
    let part := fun k => (s.readD x).extractLsb' (8 * k) 8
    let put := fun (k : Nat) (b : Byte) (t : State) =>
      putMem .b (alternateAddr a k) (b.setWidth 32) t
    ((∀ k, k < 2 → backed s (alternateAddr a k) = true) →
      Reaches (exec (.movepWM2R x y) s) (completes (·.misc.movepW)
        (p.writeD x ((s.readD x).extractLsb' 16 16 ++ (byteAt 0 ++ byteAt 1))))) ∧
    ((∀ k, k < 4 → backed s (alternateAddr a k) = true) →
      Reaches (exec (.movepLM2R x y) s) (completes (·.misc.movepL)
        (p.writeD x ((byteAt 0 ++ byteAt 1) ++ (byteAt 2 ++ byteAt 3))))) ∧
    ((∀ k, k < 2 → storable s p.pc .b (alternateAddr a k) = true) →
      Reaches (exec (.movepWR2M x y) s) (completes (·.misc.movepW) (put 1 (part 0) (put 0 (part 1) p)))) ∧
    ((∀ k, k < 4 → storable s p.pc .b (alternateAddr a k) = true) →
      Reaches (exec (.movepLR2M x y) s) (completes (·.misc.movepL)
        (put 3 (part 0) (put 2 (part 1) (put 1 (part 2) (put 0 (part 3) p))))))

/-- R208, R209, R639: LEA and PEA compute the address, read no operand, and PEA pushes it as it was
before A7 went down. -/
def Obligations.EffectiveAddressInstructions : Prop :=
  ∀ (s : State) (x : Reg) (ea : EA), quiet s = true → ea.inClass .ctrl = true →
    resolvable s .l ea = true →
    let p := afterEa s .l ea
    Reaches (exec (.lea x ea) s) (completes (leaTime ea) (p.writeA x (eaAddr s .l ea))) ∧
    (storable s p.pc .l (s.activeSp - 4) = true →
      Reaches (exec (.pea ea) s) (completes (peaTime ea) (pushed .l (eaAddr s .l ea) p)))

/-- R212, R213: LINK pushes the register as it is after A7 went down, and UNLK undoes it; UNLK A7
ends with one of two values, a free choice (log 2). -/
def Obligations.LinkAndUnlink : Prop :=
  ∀ (s : State) (y : Reg), quiet s = true →
    (fetchable s s.pc 1 = true → storable s (s.pc + 2) .l (s.activeSp - 4) = true →
      let sp := s.activeSp - 4
      let frame := (s.setActiveSp sp).readA y
      let t := (putMem .l sp frame ((skipWords 1 s).setActiveSp sp)).writeA y sp
      Reaches (exec (.link y) s)
        (completes (·.misc.link) (t.setActiveSp (t.activeSp + (wordAt s s.pc).signExtend 32)))) ∧
    (accessible s .l (s.readA y) = true →
      let v := valueAt s .l (s.readA y)
      (y ≠ 7 → Reaches (exec (.unlk y) s)
        (completes (·.misc.unlk) ((s.setActiveSp (s.readA y + 4)).writeA y v))) ∧
      (y = 7 → ∃ w, (w = v ∨ w = v + 4) ∧ Reaches (exec (.unlk y) s)
        (completes (·.misc.unlk) { s.setActiveSp w with draws := s.draws + 1 })))

/-! ### Arithmetic and logic -/

/-- R251, R258, R321, R324: the operations from an operand to a data register. -/
def Obligations.OperandToDataRegister : Prop :=
  ∀ (s : State) (x : Reg) (sz : Size) (ea : EA), quiet s = true → readable s sz ea = true →
    let p := afterEa s sz ea
    let v := operand s sz ea
    let d := trunc sz (s.readD x)
    let ends := fun (cost : Cost) (f : Flags) (r : Long) =>
      completes cost ((p.setFlags f).mergeD sz x r)
    Reaches (exec (if sz = .b then .addEaDB x ea else .addEaDWL x sz ea) s)
      (ends (toRegTime sz ea) (addFlags sz d v false) (addValue sz d v false)) ∧
    Reaches (exec (if sz = .b then .subEaDB x ea else .subEaDWL x sz ea) s)
      (ends (toRegTime sz ea) (subFlags sz d v false) (subValue sz d v false)) ∧
    Reaches (exec (.andEaD x sz ea) s)
      (ends (logicRegTime sz ea) (logicFlags s.flagX sz (d &&& v)) (d &&& v)) ∧
    Reaches (exec (.orEaD x sz ea) s)
      (ends (logicRegTime sz ea) (logicFlags s.flagX sz (d ||| v)) (d ||| v))

/-- R265, R267-R269: the compares and TST change flags only, apart from the operand's side effects;
X is unchanged. -/
def Obligations.ComparesAndTest : Prop :=
  ∀ (s : State) (x y : Reg) (sz : Size) (ea : EA), quiet s = true →
    (readable s sz ea = true →
      let p := afterEa s sz ea
      let v := operand s sz ea
      let d := trunc sz (s.readD x)
      Reaches (exec (if sz = .b then .cmpB x ea else .cmpWL x sz ea) s)
        (completes (cmpTime sz ea) (p.setFlags { subFlags sz d v false with x := s.flagX })) ∧
      Reaches (exec (.tst sz ea) s)
        (completes (tstTime sz ea) (p.setFlags (logicFlags s.flagX sz v)))) ∧
    (fetchable s s.pc (immWords sz) = true →
      let s1 := skipWords (immWords sz) s
      readable s1 sz ea = true →
      Reaches (exec (.cmpi sz ea) s)
        (completes (cmpiTime sz ea) ((afterEa s1 sz ea).setFlags
          { subFlags sz (operand s1 sz ea) (immAt s sz) false with x := s.flagX }))) ∧
    (readable s sz (.postInc y) = true →
      let p := afterEa s sz (.postInc y)
      readable p sz (.postInc x) = true →
      Reaches (exec (.cmpm x sz y) s)
        (completes (cmpmTime sz) ((afterEa p sz (.postInc x)).setFlags
          { subFlags sz (operand p sz (.postInc x)) (operand s sz (.postInc y)) false with
            x := s.flagX })))

/-- R252, R259, R322, R325, R327: the operations from a data register to an operand, resolved once,
read and written at one place. -/
def Obligations.DataRegisterToOperand : Prop :=
  ∀ (s : State) (x : Reg) (sz : Size) (ea : EA), quiet s = true → ea.inClass .dalt = true →
    writable s sz ea = true →
    let p := afterEa s sz ea
    let d := operand s sz ea
    let v := trunc sz (s.readD x)
    let ends := fun (cost : Cost) (f : Flags) (r : Long) =>
      completes cost (putOperand s sz ea r (p.setFlags f))
    Reaches (exec (.eor x sz ea) s)
      (ends (eorTime sz ea) (logicFlags s.flagX sz (d ^^^ v)) (d ^^^ v)) ∧
    (ea.inClass .malt = true →
      Reaches (exec (.addDEa x sz ea) s)
        (ends (toMemTime sz ea) (addFlags sz d v false) (addValue sz d v false)) ∧
      Reaches (exec (.subDEa x sz ea) s)
        (ends (toMemTime sz ea) (subFlags sz d v false) (subValue sz d v false)) ∧
      Reaches (exec (.andDEa x sz ea) s)
        (ends (logicMemTime sz ea) (logicFlags s.flagX sz (d &&& v)) (d &&& v)) ∧
      Reaches (exec (.orDEa x sz ea) s)
        (ends (logicMemTime sz ea) (logicFlags s.flagX sz (d ||| v)) (d ||| v)))

/-- R254, R261, R323, R326, R328: the immediate comes first, then the operand is resolved, read and
written. -/
def Obligations.ImmediateToOperand : Prop :=
  ∀ (s : State) (sz : Size) (ea : EA), quiet s = true → ea.inClass .dalt = true →
    fetchable s s.pc (immWords sz) = true →
    let s1 := skipWords (immWords sz) s
    writable s1 sz ea = true →
    let p := afterEa s1 sz ea
    let d := operand s1 sz ea
    let v := immAt s sz
    let ends := fun (cost : Cost) (f : Flags) (r : Long) =>
      completes cost (putOperand s1 sz ea r (p.setFlags f))
    Reaches (exec (.addi sz ea) s)
      (ends (addiTime sz ea) (addFlags sz d v false) (addValue sz d v false)) ∧
    Reaches (exec (.subi sz ea) s)
      (ends (addiTime sz ea) (subFlags sz d v false) (subValue sz d v false)) ∧
    Reaches (exec (.andi sz ea) s)
      (ends (andiTime sz ea) (logicFlags s.flagX sz (d &&& v)) (d &&& v)) ∧
    Reaches (exec (.ori sz ea) s)
      (ends (oriTime sz ea) (logicFlags s.flagX sz (d ||| v)) (d ||| v)) ∧
    Reaches (exec (.eori sz ea) s)
      (ends (oriTime sz ea) (logicFlags s.flagX sz (d ^^^ v)) (d ^^^ v))

/-- R255, R262: ADDQ and SUBQ: an address register changes in all 32 bits with no flag; any other
operand like ADD and SUB. -/
def Obligations.QuickArithmetic : Prop :=
  ∀ (s : State) (q : Reg) (sz : Size) (ea : EA),
    let v : Long := if q = 0 then 8 else BitVec.ofNat 32 q.val
    (∀ n : Reg, sz ≠ .b →
      exec (.addqWL q sz (.areg n)) s =
        .next (completes (quickTime sz (.areg n)) (s.writeA n (s.readA n + v))) ∧
      exec (.subqWL q sz (.areg n)) s =
        .next (completes (quickTime sz (.areg n)) (s.writeA n (s.readA n - v)))) ∧
    (quiet s = true → ea.inClass .dalt = true → writable s sz ea = true →
      let p := afterEa s sz ea
      let d := operand s sz ea
      Reaches (exec (if sz = .b then .addqB q ea else .addqWL q sz ea) s)
        (completes (quickTime sz ea)
          (putOperand s sz ea (addValue sz d v false) (p.setFlags (addFlags sz d v false)))) ∧
      Reaches (exec (if sz = .b then .subqB q ea else .subqWL q sz ea) s)
        (completes (quickTime sz ea)
          (putOperand s sz ea (subValue sz d v false) (p.setFlags (subFlags sz d v false)))))

/-- R256, R263, R401, R403, R54: the extended operations on data registers; Z is cleared by a
nonzero result and never set. N and V of the decimal ones are the free BCD_NV (log 3). -/
def Obligations.ExtendedRegisterForms : Prop :=
  ∀ (s : State) (x y : Reg) (sz : Size),
    let d := trunc sz (s.readD x)
    let v := trunc sz (s.readD y)
    let db := (s.readD x).setWidth 8
    let vb := (s.readD y).setWidth 8
    let ends := fun (sz : Size) (cost : Cost) (f : Flags) (r : Long) =>
      Host.Outcome.next (completes cost ((s.setFlags f).mergeD sz x r))
    (let r := addValue sz d v s.flagX
     exec (.addxR x sz y) s = ends sz (extendedTime sz false)
       { addFlags sz d v s.flagX with z := decide (r = 0) && s.flagZ } r) ∧
    (let r := subValue sz d v s.flagX
     exec (.subxR x sz y) s = ends sz (extendedTime sz false)
       { subFlags sz d v s.flagX with z := decide (r = 0) && s.flagZ } r) ∧
    (∀ op : BcdOp, op ≠ .nbcd →
      let r := bcdResult op vb db s.flagX
      exec (if op = .abcd then .abcdR x y else .sbcdR x y) s = ends .b (·.extended.bcdReg)
        { x := r.2, n := (Config.bcdNV op vb db s.flagX).1, z := decide (r.1 = 0) && s.flagZ,
          v := (Config.bcdNV op vb db s.flagX).2, c := r.2 } (r.1.setWidth 32))

/-- R257, R264, R402, R404: the extended operations on memory, both address registers stepped
down. N and V of the decimal ones are the free BCD_NV (log 3). -/
def Obligations.ExtendedMemoryForms : Prop :=
  ∀ (s : State) (x y : Reg) (sz : Size), quiet s = true → readable s sz (.preDec y) = true →
    let p := afterEa s sz (.preDec y)
    let q := afterEa p sz (.preDec x)
    let v := operand s sz (.preDec y)
    let d := operand p sz (.preDec x)
    writable p sz (.preDec x) = true →
    (let r := addValue sz d v s.flagX
     Reaches (exec (.addxM x sz y) s) (completes (extendedTime sz true)
       (putOperand p sz (.preDec x) r
         (q.setFlags { addFlags sz d v s.flagX with z := decide (r = 0) && s.flagZ })))) ∧
    (let r := subValue sz d v s.flagX
     Reaches (exec (.subxM x sz y) s) (completes (extendedTime sz true)
       (putOperand p sz (.preDec x) r
         (q.setFlags { subFlags sz d v s.flagX with z := decide (r = 0) && s.flagZ })))) ∧
    (sz = .b → ∀ op : BcdOp, op ≠ .nbcd →
      let vb : Byte := v.setWidth 8
      let db : Byte := d.setWidth 8
      let r := bcdResult op vb db s.flagX
      let nv := Config.bcdNV op vb db s.flagX
      Reaches (exec (if op = .abcd then .abcdM x y else .sbcdM x y) s) (completes (·.extended.bcdMem)
        (putOperand p .b (.preDec x) (r.1.setWidth 32)
          (q.setFlags { x := r.2, n := nv.1, z := decide (r.1 = 0) && s.flagZ, v := nv.2,
                        c := r.2 }))))

/-- R270-R272, R329, R405: the operations on one operand. N and V of NBCD are the free BCD_NV
(log 3). -/
def Obligations.UnaryOperations : Prop :=
  ∀ (s : State) (sz : Size) (ea : EA), quiet s = true → ea.inClass .dalt = true →
    writable s sz ea = true →
    let p := afterEa s sz ea
    let d := operand s sz ea
    let ends := fun (cost : Cost) (f : Flags) (r : Long) =>
      completes cost (putOperand s sz ea r (p.setFlags f))
    Reaches (exec (.neg sz ea) s)
      (ends (unaryTime sz ea) { subFlags sz 0 d false with c := decide (d ≠ 0), x := decide (d ≠ 0) }
        (subValue sz 0 d false)) ∧
    (let r := subValue sz 0 d s.flagX
     Reaches (exec (.negx sz ea) s)
       (ends (unaryTime sz ea) { subFlags sz 0 d s.flagX with z := decide (r = 0) && s.flagZ } r)) ∧
    Reaches (exec (.notEa sz ea) s)
      (ends (unaryTime sz ea) (logicFlags s.flagX sz (~~~d)) (trunc sz (~~~d))) ∧
    Reaches (exec (.clr sz ea) s)
      (ends (unaryTime sz ea) { x := s.flagX, n := false, z := true, v := false, c := false } 0) ∧
    (sz = .b →
      let r := bcdResult .nbcd 0 (d.setWidth 8) s.flagX
      let nv := Config.bcdNV .nbcd 0 (d.setWidth 8) s.flagX
      Reaches (exec (.nbcd ea) s)
        (ends (nbcdTime ea)
          { x := r.2, n := nv.1, z := decide (r.1 = 0) && s.flagZ, v := nv.2, c := r.2 }
          (r.1.setWidth 32)))

/-- R275-R278, R645-R648: the multiplications, and the divisions by a nonzero divisor: quotient in
the low word and remainder in the high word, or an overflow that leaves the register and has free N
and Z (log 2). The cost of a division is the free DIV_CYCLES (log 4). -/
def Obligations.MultiplyAndDivideInstructions : Prop :=
  ∀ (s : State) (x : Reg) (ea : EA), quiet s = true → readable s .w ea = true →
    let p := afterEa s .w ea
    let v : Word := (operand s .w ea).setWidth 16
    let product := fun (cost : Cost) (r : Long) =>
      completes cost ((p.setFlags (logicFlags s.flagX .l r)).writeD x r)
    Reaches (exec (.mulu x ea) s)
      (product (muluTime v ea) (muluValue (s.readD x) (v.setWidth 32))) ∧
    Reaches (exec (.muls x ea) s)
      (product (mulsTime v ea) (mulsValue (s.readD x) (v.setWidth 32))) ∧
    (v ≠ 0 → ∀ signed : Bool,
      let i : Instr := if signed then .divs x ea else .divu x ea
      let result := if signed then divsResult (s.readD x) v else divuResult (s.readD x) v
      let cost := divTime signed (s.readD x) v ea
      (∀ rem q, result = some (rem, q) →
        Reaches (exec i s) (completes cost ((p.setFlags
          { x := s.flagX, n := q.getLsbD 15, z := decide (q = 0), v := false, c := false }).writeD x
          (rem ++ q)))) ∧
      (result = none → ∃ n z : Bool, Reaches (exec i s) (completes cost
        { p.setFlags { x := s.flagX, n := n, z := z, v := true, c := false } with
          draws := s.draws + 2 })))

/-- R277-R279, R517, R643: a zero divisor takes vector 5 and CHK out of bounds vector 6, with the
next instruction stacked and the flags that the rules leave open free (log 2); CHK inside the
bounds completes. -/
def Obligations.ZeroDivideAndCheck : Prop :=
  ∀ (s : State) (x : Reg) (ea : EA), quiet s = true → readable s .w ea = true →
    let p := afterEa s .w ea
    let v := operand s .w ea
    let d := signedOf .w (s.readD x)
    (v = 0 → canEnter 5 p = true → ∀ i : Instr, i = .divu x ea ∨ i = .divs x ea →
      ∃ n z o : Bool, Reaches (exec i s) (traps 5 (zeroDivideTime ea)
        { p.setFlags { x := s.flagX, n := n, z := z, v := o, c := false } with
          draws := s.draws + 3 })) ∧
    (d < 0 ∨ signedOf .w v < d → canEnter 6 p = true →
      ∃ z o c : Bool, Reaches (exec (.chk x ea) s) (traps 6 (chkTrapTime ea)
        { p.setFlags { x := s.flagX, n := decide (d < 0), z := z, v := o, c := c } with
          draws := s.draws + 3 })) ∧
    (0 ≤ d → d ≤ signedOf .w v →
      ∃ n z o c : Bool, Reaches (exec (.chk x ea) s) (completes (chkTime ea)
        { p.setFlags { x := s.flagX, n := n, z := z, v := o, c := c } with
          draws := s.draws + 4 }))

/-! ### Shifts and bits -/

/-- R350-R358, R367, R636: the register shifts: the count from the field or a register modulo 64;
a count of 0 leaves the register and follows the policy. -/
def Obligations.ShiftRegisterForms : Prop :=
  ∀ (s : State) (count : Count) (sz : Size) (y : Reg),
    let n := match count with
      | .imm c => if c = 0 then 8 else c.val
      | .reg c => (s.readD c).toNat % 64
    let d := trunc sz (s.readD y)
    let ends := fun (f : Flags) (r : Long) =>
      Host.Outcome.next (completes (shiftRegTime sz n) ((s.setFlags f).mergeD sz y r))
    let zero := fun (xToC : Bool) =>
      Host.Outcome.next (completes (shiftRegTime sz 0) (s.setFlags
        (if s.cfg.shiftZero = .unchanged then s.flags
         else { x := s.flagX, n := msbOf sz d, z := decide (d = 0), v := false,
                c := xToC && s.flagX })))
    (n ≠ 0 →
      exec (.aslR count sz y) s = ends (aslFlags sz d n) (trunc sz (d <<< n)) ∧
      exec (.lslR count sz y) s =
        ends { aslFlags sz d n with v := false } (trunc sz (d <<< n)) ∧
      exec (.asrR count sz y) s = ends (asrFlags sz d n) (asrValue sz d n) ∧
      exec (.lsrR count sz y) s = ends (lsrFlags sz d n) (d >>> n) ∧
      exec (.rolR count sz y) s = ends (rolFlags s.flagX sz d n) (rolValue sz d n) ∧
      exec (.rorR count sz y) s = ends (rorFlags s.flagX sz d n) (rorValue sz d n) ∧
      (let w := roxlBits s.flagX sz d n
       exec (.roxlR count sz y) s = ends (roxFlags sz w) (roxValue sz w)) ∧
      (let w := roxrBits s.flagX sz d n
       exec (.roxrR count sz y) s = ends (roxFlags sz w) (roxValue sz w))) ∧
    (n = 0 →
      exec (.aslR count sz y) s = zero false ∧ exec (.asrR count sz y) s = zero false ∧
      exec (.lslR count sz y) s = zero false ∧ exec (.lsrR count sz y) s = zero false ∧
      exec (.rolR count sz y) s = zero false ∧ exec (.rorR count sz y) s = zero false ∧
      exec (.roxlR count sz y) s = zero true ∧ exec (.roxrR count sz y) s = zero true)

/-- R359-R366, R636: the memory shifts, by one bit of one word. -/
def Obligations.ShiftMemoryForms : Prop :=
  ∀ (s : State) (ea : EA), quiet s = true → ea.inClass .malt = true → writable s .w ea = true →
    let d := operand s .w ea
    let w : Word := d.setWidth 16
    let ends := fun (x : Bool) (c : Bool) (v : Bool) (r : Word) =>
      completes (shiftMemTime ea) (putOperand s .w ea (r.setWidth 32) ((afterEa s .w ea).setFlags
        { x := x, n := r.getLsbD 15, z := decide (r = 0), v := v, c := c }))
    let hi := w.getLsbD 15
    let lo := w.getLsbD 0
    Reaches (exec (.aslM ea) s) (ends hi hi (hi ^^ w.getLsbD 14) (w <<< 1)) ∧
    Reaches (exec (.lslM ea) s) (ends hi hi false (w <<< 1)) ∧
    Reaches (exec (.asrM ea) s) (ends lo lo false (w.sshiftRight 1)) ∧
    Reaches (exec (.lsrM ea) s) (ends lo lo false (w >>> 1)) ∧
    Reaches (exec (.rolM ea) s) (ends s.flagX hi false (w.rotateLeft 1)) ∧
    Reaches (exec (.rorM ea) s) (ends s.flagX lo false (w.rotateRight 1)) ∧
    Reaches (exec (.roxlM ea) s) (ends hi hi false (w <<< 1 ||| (BitVec.ofBool s.flagX).setWidth 16)) ∧
    Reaches (exec (.roxrM ea) s)
      (ends lo lo false (w >>> 1 ||| (BitVec.ofBool s.flagX).setWidth 16 <<< 15))

/-- R380-R388, R637: the bit operations: the bit number modulo 32 in a data register and modulo 8
elsewhere; Z is the complement of the bit before the change, and no other flag changes. -/
def Obligations.BitOperations : Prop :=
  ∀ (s : State) (x : Reg) (ea : EA) (static : Bool), quiet s = true →
    (static = true → fetchable s s.pc 1 = true) →
    let s1 := if static then skipWords 1 s else s
    let bitno := if static then ((wordAt s s.pc).setWidth 8).toNat else (s.readD x).toNat
    let sz : Size := if isDreg ea then .l else .b
    let n := bitno % (if isDreg ea then 32 else 8)
    let v := operand s1 sz ea
    let p := (afterEa s1 sz ea).setFlags { s.flags with z := !v.getLsbD n }
    (ea.inClass .data = true → (static = true → ea ≠ .imm) → readable s1 sz ea = true →
      Reaches (exec (if static then .btstS ea else .btstD x ea) s)
        (completes (bitTime (if static then (·.btstS) else (·.btstD)) ea) p)) ∧
    (ea.inClass .dalt = true → writable s1 sz ea = true →
      Reaches (exec (if static then .bchgS ea else .bchgD x ea) s)
        (completes (bitTime (if static then (·.bchgS) else (·.bchgD)) ea)
          (putOperand s1 sz ea (v ^^^ ((1 : Long) <<< n)) p)) ∧
      Reaches (exec (if static then .bclrS ea else .bclrD x ea) s)
        (completes (bitTime (if static then (·.bclrS) else (·.bclrD)) ea)
          (putOperand s1 sz ea (v &&& ~~~((1 : Long) <<< n)) p)) ∧
      Reaches (exec (if static then .bsetS ea else .bsetD x ea) s)
        (completes (bitTime (if static then (·.bsetS) else (·.bsetD)) ea)
          (putOperand s1 sz ea (v ||| ((1 : Long) <<< n)) p)))

/-- R390: TAS sets N and Z from the byte and then bit 7, in a register always, in memory when the
callback allows it: the default does, the host's does by an answer other than 0 (log 1, 21). -/
def Obligations.TestAndSet : Prop :=
  ∀ (s : State) (ea : EA), ea.inClass .dalt = true →
    (let q := { s with handlers := { s.handlers with tasInstr := .default } }
     quiet q = true → writable s .b ea = true →
     let v := operand s .b ea
     let p := (afterEa s .b ea).setFlags (logicFlags s.flagX .b v)
     let ends := fun (allow : Bool) (t : State) => completes (tasTime ea)
       (if allow || isDreg ea then putOperand s .b ea (v ||| 0x80) t else t)
     (isDreg ea = true ∨ s.handlers.tasInstr = .default →
       Reaches (exec (.tas ea) s) (ends true p)) ∧
     (∀ value rest, isDreg ea = false → s.handlers.tasInstr = .host →
       s.script = { value := value, moves := [] } :: rest →
       Reaches (exec (.tas ea) s) (ends (value != 0) { p with script := rest })))

/-! ### Program control -/

/-- R420-R422, R424, R638: Bcc, BRA and DBcc: the base is the address after the opcode word; the
displacement word is fetched whether or not the branch is taken. -/
def Obligations.Branches : Prop :=
  ∀ (s : State) (cond : Cond) (d8 : Byte) (y : Reg), quiet s = true →
    let long := d8 == 0
    let disp : Long := if long then (wordAt s s.pc).signExtend 32 else d8.signExtend 32
    let next := if long then skipWords 1 s else s
    let taken := next.setPc (s.pc + disp)
    ((long = true → fetchable s s.pc 1 = true) →
      Reaches (exec (.bra d8) s) (completes (branchTime (·.bra) d8) taken) ∧
      (condHolds s.flags cond = true →
        Reaches (exec (.bcc cond d8) s) (completes (bccTime true d8) taken)) ∧
      (condHolds s.flags cond = false →
        Reaches (exec (.bcc cond d8) s) (completes (bccTime false d8) next))) ∧
    (fetchable s s.pc 1 = true →
      let next := skipWords 1 s
      let count : Word := (s.readD y).setWidth 16 - 1
      let counted := next.writeD y ((s.readD y).extractLsb' 16 16 ++ count)
      Reaches (exec (.dbcc cond y) s)
        (if condHolds s.flags cond then completes (·.branch.dbccTrue) next
         else if count = 0xFFFF then completes (·.branch.dbccExpired) counted
         else completes (·.branch.dbccTaken)
          (counted.setPc (s.pc + (wordAt s s.pc).signExtend 32))))

/-- R50, R425, R635: Scc writes a byte of ones or zeros by the condition table. -/
def Obligations.SetByCondition : Prop :=
  (∀ (s : State) (cond : Cond) (ea : EA), quiet s = true → ea.inClass .dalt = true →
    writable s .b ea = true →
    let yes := condHolds s.flags cond
    Reaches (exec (.scc cond ea) s) (completes (sccTime yes ea)
      (putOperand s .b ea (if yes then 0xFF else 0) (afterEa s .b ea)))) ∧
  (∀ f : Flags,
    condHolds f .t = true ∧ condHolds f .f = false ∧
    (condHolds f .hi = true ↔ f.c = false ∧ f.z = false) ∧
    (condHolds f .ls = true ↔ f.c = true ∨ f.z = true) ∧
    condHolds f .cc = !f.c ∧ condHolds f .cs = f.c ∧ condHolds f .ne = !f.z ∧
    condHolds f .eq = f.z ∧ condHolds f .vc = !f.v ∧ condHolds f .vs = f.v ∧
    condHolds f .pl = !f.n ∧ condHolds f .mi = f.n ∧
    (condHolds f .ge = true ↔ f.n = f.v) ∧ (condHolds f .lt = true ↔ f.n ≠ f.v) ∧
    (condHolds f .gt = true ↔ f.z = false ∧ f.n = f.v) ∧
    (condHolds f .le = true ↔ f.z = true ∨ f.n ≠ f.v))

/-- R423, R426-R431: jumps, calls, returns, NOP and TRAPV with V clear. -/
def Obligations.JumpsCallsAndReturns : Prop :=
  ∀ (s : State) (ea : EA) (d8 : Byte), quiet s = true →
    let sp := s.activeSp
    (ea.inClass .ctrl = true → resolvable s .l ea = true →
      let p := afterEa s .l ea
      let a := eaAddr s .l ea
      Reaches (exec (.jmp ea) s) (completes (jmpTime ea) (p.setPc a)) ∧
      (storable s p.pc .l (sp - 4) = true → clearOf a (sp - 4) .l = true →
        Reaches (exec (.jsr ea) s) (completes (jsrTime ea) ((pushed .l p.pc p).setPc a)))) ∧
    (let long := d8 == 0
     let disp : Long := if long then (wordAt s s.pc).signExtend 32 else d8.signExtend 32
     let next := if long then skipWords 1 s else s
     (long = true → fetchable s s.pc 1 = true) →
     storable s next.pc .l (sp - 4) = true → clearOf (s.pc + disp) (sp - 4) .l = true →
     Reaches (exec (.bsr d8) s)
       (completes (branchTime (·.bsr) d8) ((pushed .l next.pc next).setPc (s.pc + disp)))) ∧
    (accessible s .l sp = true →
      Reaches (exec .rts s) (completes (·.misc.rts) ((popped .l s).setPc (valueAt s .l sp)))) ∧
    (accessible s .w sp = true → accessible s .l (sp + 2) = true →
      Reaches (exec .rtr s) (completes (·.misc.rtr)
        (((popped .l (popped .w s)).setCcr ((wordAt s sp).setWidth 5)).setPc
          (valueAt s .l (sp + 2))))) ∧
    exec .nop s = .next (completes (·.misc.nop) s) ∧
    (s.flagV = false → exec .trapv s = .next (completes (·.misc.trapv) s))

/-! ### System control -/

/-- R461-R463, R467, R469: the operations on CCR change `SR[4:0]` alone; MOVE from SR runs in both
modes. -/
def Obligations.ConditionCodeOperations : Prop :=
  ∀ (s : State) (ea : EA), quiet s = true →
    (fetchable s s.pc 1 = true →
      let w := wordAt s s.pc
      let ends := fun (v : Word) => completes (·.misc.toCcr)
        { skipWords 1 s with sr := (s.sr &&& 0xFFE0) ||| (v &&& 0x001F) }
      Reaches (exec .andiCcr s) (ends (s.sr &&& w)) ∧
      Reaches (exec .oriCcr s) (ends (s.sr ||| w)) ∧
      Reaches (exec .eoriCcr s) (ends (s.sr ^^^ w))) ∧
    (readable s .w ea = true →
      Reaches (exec (.moveToCcr ea) s) (completes (moveToCcrTime ea)
        { afterEa s .w ea with
          sr := (s.sr &&& 0xFFE0) ||| ((operand s .w ea).setWidth 16 &&& 0x001F) })) ∧
    (ea.inClass .dalt = true → writable s .w ea = true →
      Reaches (exec (.moveFromSr ea) s) (completes (moveFromSrTime ea)
        (putOperand s .w ea (s.sr.setWidth 32) (afterEa s .w ea))))

/-- R464-R466, R468, R470-R472, R474, R475: the privileged instructions in supervisor state. -/
def Obligations.PrivilegedInSupervisorState : Prop :=
  ∀ (s : State) (y : Reg) (ea : EA), quiet s = true → s.flagS = true →
    (fetchable s s.pc 1 = true →
      let w := wordAt s s.pc
      let p := skipWords 1 s
      Reaches (exec .andiSr s) (completes (·.misc.toSr) (p.setSr (s.sr &&& w))) ∧
      Reaches (exec .oriSr s) (completes (·.misc.toSr) (p.setSr (s.sr ||| w))) ∧
      Reaches (exec .eoriSr s) (completes (·.misc.toSr) (p.setSr (s.sr ^^^ w))) ∧
      Reaches (exec .stop s) (completes (·.misc.stop) { p.setSr w with stopped := true })) ∧
    (readable s .w ea = true →
      Reaches (exec (.moveToSr ea) s) (completes (moveToSrTime ea)
        ((afterEa s .w ea).setSr ((operand s .w ea).setWidth 16)))) ∧
    exec (.moveToUsp y) s = .next (completes (·.misc.moveUsp) { s with usp := s.readA y }) ∧
    exec (.moveFromUsp y) s = .next (completes (·.misc.moveUsp) (s.writeA y s.usp)) ∧
    Reaches (exec .reset s) (completes (·.misc.reset) s) ∧
    (∃ t, exec .reset s = .next t ∧ t.calls = s.calls ++ [.resetInstr]) ∧
    (accessible s .w s.ssp = true → accessible s .l (s.ssp + 2) = true →
      Reaches (exec .rte s) (completes (·.misc.rte)
        (({ s with ssp := s.ssp + 6 }.setSr (wordAt s s.ssp)).setPc (valueAt s .l (s.ssp + 2)))))

/-- R172, R479, R510, R516, R643: every privileged instruction in user state takes vector 8 with its
own address stacked and has no effect of its own; how the step ended is the model's record
(log 13). -/
def Obligations.PrivilegeViolation : Prop :=
  ∀ (s : State) (i : Instr), quiet s = true → s.flagS = false → isPrivileged i = true →
    canEnter 8 s = true → Reaches (exec i s) (trapsAtDecode 8 (·.exception.privilege) s)

/-- R431, R473, R476-R478, R480, R510, R514, R515, R517, R643: the traps and the words that decode to
no instruction; how the step ended is the model's record (log 13). -/
def Obligations.TrapsAndIllegalWords : Prop :=
  ∀ (s : State), quiet s = true →
    let illegal := fun (v : Byte) => trapsAtDecode v (·.exception.illegal) s
    (∀ v : Fin 16, canEnter (BitVec.ofNat 8 (32 + v.val)) s = true →
      Reaches (exec (.trap v) s)
        (traps (BitVec.ofNat 8 (32 + v.val)) (·.exception.trap) s)) ∧
    (s.flagV = true → canEnter 7 s = true →
      Reaches (exec .trapv s) (traps 7 (·.exception.trapv) s)) ∧
    (canEnter 4 s = true → Reaches (exec .illegal s) (illegal 4) ∧
      ∀ w, decode w = .error .unassigned → Reaches (executeWord w s) (illegal 4)) ∧
    (∀ w, canEnter 10 s = true → Reaches (exec (.lineA w) s) (illegal 10)) ∧
    (∀ w, canEnter 11 s = true → Reaches (exec (.lineF w) s) (illegal 11))

/-! ### Exceptions -/

/-- R510-R512: the entry of a group 1 or group 2 exception: S set, T cleared, the mask raised for an
interrupt, the frame of six bytes on the supervisor stack, pc from the vector, and the rollback
copy taken. -/
def Obligations.ExceptionEntry : Prop :=
  ∀ (s : State) (v : Byte) (pc : Long) (mask : Option Level), quiet s = true →
    s.mem.wf = true → canEnter v s = true →
    ∃ t, exceptionEntry v pc mask s = .ok () t ∧ SameButBus t (atHandler v pc mask s) ∧
      t.flagS = true ∧ t.flagT = false ∧ t.stopped = false ∧ t.ssp = s.ssp - 6 ∧ t.usp = s.usp ∧
      wordAt t t.ssp = s.sr ∧ valueAt t .l (t.ssp + 2) = pc ∧
      t.irqMask = mask.getD s.irqMask ∧ t.flags = s.flags ∧
      (∀ b : Addr, b ∉ bytesFrom (s.ssp - 6) 6 → t.mem.read b.toNat = s.mem.read b.toNat)

/-- R472, R512: RTE after an entry comes back to the stacked pc with SR and both stack pointers as
before. -/
def Obligations.ReturnUndoesEntry : Prop :=
  ∀ (s t : State) (v : Byte) (pc : Long) (mask : Option Level), quiet s = true →
    s.mem.wf = true → canEnter v s = true → s.sr &&& ~~~srMask = 0 → exceptionEntry v pc mask s = .ok () t →
    ReachesSome (exec .rte t) fun u =>
      u.pc = pc ∧ u.sr = s.sr ∧ u.usp = s.usp ∧ u.ssp = s.ssp ∧ u.d = s.d ∧ u.a = s.a ∧
      u.mem = t.mem

/-- R522-R524: the processing of an address error: the registers and SR rolled back, the frame of
fourteen bytes with the fault fields, pc from vector 3; the stacked pc and the upper status bits are
free (log 2). -/
def Obligations.AddressErrorProcessing : Prop :=
  ∀ (s : State), quiet s = true → s.mem.wf = true → s.runMode = .normal →
    accessible s .l (s.saved.ssp - 4) = true → accessible s .w (s.saved.ssp - 6) = true →
    accessible s .w (s.saved.ssp - 8) = true → accessible s .l (s.saved.ssp - 12) = true →
    accessible s .w (s.saved.ssp - 14) = true → accessible s .l 12 = true →
    ReachesSome (addressError s) fun t =>
      t.d = s.saved.d ∧ t.a = s.saved.a ∧ t.usp = s.saved.usp ∧ t.ssp = s.saved.ssp - 14 ∧
      t.sr = ((s.saved.sr ||| 0x2000) &&& 0x7FFF) &&& srMask ∧ t.pc = valueAt t .l 12 ∧
      t.runMode = .normal ∧ t.stopped = false ∧ t.doubleFault = s.doubleFault ∧
      t.cyclesTotal = s.cyclesTotal + s.cfg.cycles.exception.addressError ∧ t.ir = s.ir ∧
      wordAt t (t.ssp + 8) = s.saved.sr ∧ wordAt t (t.ssp + 6) = s.ir ∧
      valueAt t .l (t.ssp + 2) = s.aerrAddress ∧
      (wordAt t t.ssp).extractLsb' 0 5 =
        BitVec.ofBool (!s.aerrWrite) ++ BitVec.ofBool (!s.aerrInstr) ++ s.aerrFc ∧
      (∀ b : Addr, b ∉ bytesFrom (s.saved.ssp - 14) 14 →
        t.mem.read b.toNat = s.mem.read b.toNat)

/-- R522, R70: an instruction that ends in an address error has changed no register: D0-D7, A0-A6
and USP are the rollback copy's, SSP is fourteen bytes below it, SR is the copy's with S set and T
cleared. -/
def Obligations.AddressErrorRollsBack : Prop :=
  ∀ (s t : State) (i : Instr), exec i s = .next t → t.lastEnd = .addressFault →
    t.doubleFault = false →
    t.d = s.saved.d ∧ t.a = s.saved.a ∧ t.usp = s.saved.usp ∧ t.ssp = s.saved.ssp - 14 ∧
    t.sr = ((s.saved.sr ||| 0x2000) &&& 0x7FFF) &&& srMask ∧ t.runMode = .normal ∧
    t.cyclesTotal = s.cyclesTotal + s.cfg.cycles.exception.addressError

/-- R525: with an odd supervisor stack pointer an exception entry ends in a double fault. -/
def Obligations.DoubleFault : Prop :=
  ∀ (s : State) (e : StepEnd) (c : Cost) (v : Byte) (pc : Long) (mask : Option Level),
    s.ssp.getLsbD 0 = true →
    ReachesSome (takeException e c v pc mask s) fun t =>
      t.doubleFault = true ∧ t.ssp = s.ssp - 4 ∧ t.aerrAddress = s.ssp - 4 ∧
      t.aerrWrite = true ∧ t.aerrInstr = false ∧ t.aerrFc = 5 ∧ t.mem = s.mem ∧ t.pc = s.pc

/-! ### Steps, interrupts and trace -/

/-- R570, R571: at a boundary that is neither halted nor interrupted nor stopped, a step takes the
rollback copy, applies a due delayed level, counts this instruction for a level still delayed,
fetches the opcode word into IR, executes the instruction it decodes to, and then does the trace and
the idle detector. That the instruction is counted at its start is the model's reading (log 15). -/
def Obligations.StepRunsTheDecodedInstruction : Prop :=
  ∀ (s : State) (i : Instr),
    let b := applyDelayed s.takeSaved
    b.halted = false → pendingLevel b = none → b.stopped = false → quiet b = true →
    fetchable b b.pc 1 = true → decode (wordAt b b.pc) = .ok i →
    ∃ t, SameButBus t { skipWords 1 b with
        instPc := b.pc, tracePending := b.cfg.emulateTrace && b.flagT, ir := wordAt b b.pc
        delayedIrq := b.delayedIrq.map fun p => (p.1, 0) } ∧
      step s = match exec i t with
        | .next u => afterInstruction (some i) s.cyclesTotal u
        | .fault f => .fault f
        | .refused r => .refused r

/-- R530, R567, R580, R643: what a step does after an instruction: when the instruction is not
traced, the idle detector, a step that executed nothing not counted for a delayed level, and nothing
else but clearing `trace_pending`; when it is, the trace exception in the same step, with pc stacked
and its cost added. How a step ended is a field of the model (log 13); what is counted for a delayed
level is its reading (log 15). -/
def Obligations.AfterTheInstruction : Prop :=
  (∀ (u : State) (i : Option Instr) (start : Nat), traceDue u = false →
    ReachesSome (afterInstruction i start u) fun t =>
      t = { u with
        tracePending := false
        idleDetected := t.idleDetected, idlePc := t.idlePc, idleCycle := t.idleCycle
        delayedIrq := t.delayedIrq } ∧
      t.delayedIrq =
        (if u.lastEnd = .completed ∨ u.lastEnd = .group2 ∨ u.lastEnd = .addressFault then
          u.delayedIrq else u.delayedIrq.map fun p => (p.1, 1)) ∧
      (u.cfg.idleDetect = true →
        let self := ((∃ c d, i = some (.bcc c d)) ∨ ∃ d, i = some (.bra d)) ∧
          u.lastEnd = .completed ∧ u.pc = u.instPc
        (t.idleDetected = true ↔ self ∧ u.idlePc = u.instPc ∧ u.idleCycle = start) ∧
        (self → t.idlePc = u.instPc ∧ t.idleCycle = u.cyclesTotal) ∧
        (¬ self → t.idlePc = u.idlePc ∧ t.idleCycle = u.idleCycle))) ∧
  (∀ (u : State) (i : Option Instr) (start : Nat), quiet u = true → u.tracePending = true →
    u.lastEnd = .completed ∨ u.lastEnd = .group2 → canEnter 9 u = true →
    ReachesSome (afterInstruction i start u) fun t =>
      let v := atHandler 9 u.pc none u
      t.pc = v.pc ∧ t.sr = v.sr ∧ t.ssp = v.ssp ∧ t.usp = v.usp ∧ t.d = v.d ∧ t.a = v.a ∧
      t.mem = v.mem ∧ t.stopped = false ∧ t.tracePending = false ∧
      t.cyclesTotal = u.cyclesTotal + u.cfg.cycles.exception.trace ∧ t.lastEnd = u.lastEnd ∧
      t.delayedIrq = u.delayedIrq)

/-- R540, R543-R545: a deliverable interrupt takes the vector that the acknowledge gives, the
autovector of its level by default, stacks pc and SR, and raises the mask to the level, at its
cost; an answer that is no vector is a fault. -/
def Obligations.InterruptsTakeTheirVector : Prop :=
  (∀ (s : State) (l : Level), quiet s = true → s.halted = false → pendingLevel s = some l →
    canEnter (BitVec.ofNat 8 (24 + l.val)) s = true →
    (l = 7 ∨ s.irqMask < l) ∧
    Reaches (atBoundary s) (finish .interrupt (·.exception.interrupt)
      (atHandler (BitVec.ofNat 8 (24 + l.val)) s.pc (some l)
        { s with
          nmiPending := if l = 7 then false else s.nmiPending
          idleDetected := if s.cfg.idleDetect then false else s.idleDetected }))) ∧
  (∀ (s : State) (l : Level) (answer : Long) (rest : List Answer),
    s.handlers = { intAck := .host } → s.script = { value := answer, moves := [] } :: rest →
    (∀ v : Byte, answer = v.setWidth 32 ∨ (answer = 0xFFFFFFFE ∧ v = 24) ∨
        (answer = 0xFFFFFFFF ∧ v.toNat = 24 + l.val) →
      ∃ t, acknowledge l s = .ok v t ∧ t.script = rest ∧ t.pc = s.pc ∧ t.sr = s.sr ∧
        (s.cfg.fcEmulation = true → t.fc = 7) ∧ t.calls.getLast? = some (.intAck l)) ∧
    (256 ≤ answer.toNat → answer ≠ 0xFFFFFFFE → answer ≠ 0xFFFFFFFF →
      ∃ t, acknowledge l s = .error (.fault (.badIackVector l answer)) t))

/-- R551, R572, R652: a halted step, and a stopped step with no interrupt deliverable, charge the
rest of the budget and execute nothing. That the charge is made inside the step, and that the step
clears `idle_detected`, are the model's choices (log 13, 14). -/
def Obligations.IdleStepsOnlyCharge : Prop :=
  ∀ (s : State),
    let b := applyDelayed s.takeSaved
    b.halted = true ∨ (pendingLevel b = none ∧ b.stopped = true) →
    ReachesSome (step s) fun t =>
      t.cyclesRun = b.cyclesRun + (b.budget - b.cyclesRun) ∧
      t.cyclesTotal = b.cyclesTotal + (b.budget - b.cyclesRun) ∧ t.lastEnd = .idle ∧
      t.idleDetected = (if b.cfg.idleDetect then false else b.idleDetected) ∧
      t = { b with
        cyclesRun := t.cyclesRun, cyclesTotal := t.cyclesTotal, lastEnd := t.lastEnd
        idleDetected := t.idleDetected }

/-! ### The whole machine -/

/-- R72: the invariant holds after reset; the registers the spec leaves open there have the values of
log 6-8. -/
def Obligations.InvariantAtReset : Prop := Inv State.reset

/-- R72: every step that answers a next state keeps the invariant, whatever the host answers. -/
def Obligations.StepKeepsInvariant : Prop :=
  ∀ s t : State, Inv s → step s = .next t → Inv t

/-- R67, R69, R72, R57, R100: no step lowers a cycle counter or changes the callbacks, the map, the
parameters, the prefetch registers or the budget. That the parameters are a field of State is the
model's choice (log 5). -/
def Obligations.StepKeepsTheHostsState : Prop :=
  ∀ s t : State, step s = .next t →
    s.cyclesTotal ≤ t.cyclesTotal ∧ s.cyclesRun ≤ t.cyclesRun ∧
    t.handlers = s.handlers ∧ t.map = s.map ∧ t.cfg = s.cfg ∧
    t.prefAddr = s.prefAddr ∧ t.prefData = s.prefData ∧ t.budget = s.budget ∧
    s.draws ≤ t.draws

/-- R48, R172: an instruction that completes in user state changes neither `SR[15:5]` nor SSP. -/
def Obligations.UserStateIsConfined : Prop :=
  ∀ (s t : State) (i : Instr), s.flagS = false → exec i s = .next t → t.lastEnd = .completed →
    t.ssp = s.ssp ∧ t.sr.extractLsb' 5 11 = s.sr.extractLsb' 5 11 ∧ t.stopped = s.stopped

/-- The frame of the registers: an instruction that completes changes no data or address register
but those it names, and no stack pointer but the active one (R40-R43). MOVEM's list is in its mask
word, so MOVEM to registers may write any here; MovemLoadsRegisters gives its registers. -/
def Obligations.RegisterFrame : Prop :=
  ∀ (s t : State) (i : Instr), exec i s = .next t → t.lastEnd = .completed →
    (∀ n : Reg, mayWriteD i n = false → t.readD n = s.readD n) ∧
    (∀ n : Reg, n ≠ 7 → mayWriteA i n = false → t.readA n = s.readA n) ∧
    (mayWriteA i 7 = false → s.flagS = true → t.ssp = s.ssp) ∧
    (mayWriteA i 7 = false → s.flagS = false → t.usp = s.usp) ∧
    (s.flagS = true → (∀ y, i ≠ .moveToUsp y) → t.usp = s.usp) ∧
    (s.flagS = false → t.ssp = s.ssp)

/-- The frame of SR: an instruction that completes changes `SR[15:5]` only if it writes SR, X only
if its rule says so, and no condition code if its rule names none (R51). -/
def Obligations.StatusFrame : Prop :=
  ∀ (s t : State) (i : Instr), exec i s = .next t → t.lastEnd = .completed →
    (writesSr i = false → t.sr.extractLsb' 5 11 = s.sr.extractLsb' 5 11) ∧
    (mayChangeX i = false → t.flagX = s.flagX) ∧
    (keepsFlags i = true → t.sr = s.sr) ∧
    (changesZOnly i = true → t.flagN = s.flagN ∧ t.flagV = s.flagV ∧ t.flagC = s.flagC)

/-- The frame of the special state: an instruction that completes writes none of IR, the prefetch
registers, `inst_pc`, the fault fields, the rollback copy and the idle state; `stopped` is set by
STOP alone; the interrupt and halt inputs change only by a host move. -/
def Obligations.SpecialStateFrame : Prop :=
  ∀ (s t : State) (i : Instr), exec i s = .next t → t.lastEnd = .completed →
    t.ir = s.ir ∧ t.prefAddr = s.prefAddr ∧ t.prefData = s.prefData ∧ t.instPc = s.instPc ∧
    t.aerrAddress = s.aerrAddress ∧ t.aerrWrite = s.aerrWrite ∧ t.aerrInstr = s.aerrInstr ∧
    t.aerrFc = s.aerrFc ∧ t.saved = s.saved ∧ t.runMode = s.runMode ∧
    t.doubleFault = s.doubleFault ∧ t.tracePending = s.tracePending ∧
    t.idlePc = s.idlePc ∧ t.idleCycle = s.idleCycle ∧ t.idleDetected = s.idleDetected ∧
    (i ≠ .stop → t.stopped = s.stopped) ∧
    (s.script = [] → t.intLevel = s.intLevel ∧ t.nmiPending = s.nmiPending ∧
      t.delayedIrq = s.delayedIrq ∧ t.haltPin = s.haltPin)

/-- The frame of memory: with no host move to come, an instruction that completes changes no byte
outside the places it stores to, which are computed by the functions its meaning uses. -/
def Obligations.MemoryFrame : Prop :=
  ∀ (s t : State) (i : Instr), s.script = [] → exec i s = .next t → t.lastEnd = .completed →
    ∀ b : Addr, (∀ p ∈ storeSites i s, b ∉ bytesFrom p.2 (bytesOf p.1)) →
      t.mem.read b.toNat = s.mem.read b.toNat

/-! ### Host operations -/

/-- R563, R71, R585, R586: a register set and then got holds the part of the value it can hold; a
saved context loaded into any context gives every field of the snapshot back, and keeps that
context's callbacks, map and memory. -/
def Obligations.HostAccessToState : Prop :=
  (∀ (r : RegName) (v : Long) (s : State),
    getReg r (setReg r v s) = holdable r v ∧
    getReg .sp s = getReg (.a 7) s ∧
    getReg .sp s = (if s.flagS then getReg .isp s else getReg .usp s)) ∧
  (∀ c d : State, c.sr &&& ~~~srMask = 0 →
    save (load (save c) d) = save c ∧ (load (save c) d).handlers = d.handlers ∧
    (load (save c) d).map = d.map ∧ (load (save c) d).mem = d.mem)

/-- R601, R602, R651: pulse_reset clears the transient state, loads SSP and pc from region 0, and
keeps the rest; a region 0 that is not pointer-backed is a fault. -/
def Obligations.PulseReset : Prop :=
  ∀ s : State, quiet s = true →
    (backed s 0 = true → ∃ t, pulseReset s = .ok () t ∧ SameButBus t { s with
        stopped := false, haltPin := false, doubleFault := false, intLevel := 0
        nmiPending := false, delayedIrq := none, runMode := .normal
        sr := (s.sr &&& 0x001F) ||| 0x2700
        ssp := valueAt s .l 0, pc := valueAt s .l 4, tracePending := false
        idlePc := 0, idleCycle := 0, idleDetected := false
        cyclesTotal := s.cyclesTotal + s.cfg.resetCycles } ∧
      (s.cfg.fcEmulation = true → t.fc = 6)) ∧
    (backed s 0 = false → ∃ t, pulseReset s = .error (.fault (.fetchNotPointerBacked 0)) t)
end

