-- ==== Sys2Proof/Laws/Exec.lean ====
section
/-!
SUPPORT. Running a body: its small steps, how a sequence runs and what a sequence that ended says
of its parts; and the states that agree but for FC and the record of calls.
-/

namespace Sys2Proof.Machine

variable {α β : Type} {s t u : State}

/-! ### Small steps -/

@[simp] theorem look_apply (f : State → α) (s : State) : look f s = .ok (f s) s := rfl

@[simp] theorem update_apply (f : State → State) (s : State) : update f s = .ok () (f s) := rfl

@[simp] theorem failWith_apply (f : Fault) (s : State) :
    (failWith f : Exec α) s = .error (.fault f) s := rfl

@[simp] theorem pure_apply (a : α) (s : State) : (pure a : Exec α) s = .ok a s := rfl

@[simp] theorem drawBit_apply (s : State) :
    drawBit s = .ok (Config.freeBit s.draws) { s with draws := s.draws + 1 } := rfl

@[simp] theorem drawLong_apply (s : State) :
    drawLong s = .ok (Config.freeLong s.draws) { s with draws := s.draws + 1 } := rfl

/-- A sequence runs its first part, then the rest on what that answers. -/
theorem bind_apply (x : Exec α) (f : α → Exec β) (s : State) :
    (x >>= f) s = match x s with
      | .ok a t => f a t
      | .error e t => .error e t := by
  show EStateM.bind x f s = _
  unfold EStateM.bind
  cases x s <;> rfl

theorem bind_ok {x : Exec α} (f : α → Exec β) {a : α} (h : x s = .ok a t) :
    (x >>= f) s = f a t := by rw [bind_apply, h]

theorem bind_error {x : Exec α} (f : α → Exec β) {e : Stop} (h : x s = .error e t) :
    (x >>= f) s = .error e t := by rw [bind_apply, h]

@[simp] theorem look_bind (g : State → α) (f : α → Exec β) (s : State) :
    (look g >>= f) s = f (g s) s := rfl

@[simp] theorem update_bind (g : State → State) (f : Unit → Exec β) (s : State) :
    (update g >>= f) s = f () (g s) := rfl

@[simp] theorem pure_bind_apply (a : α) (f : α → Exec β) (s : State) :
    ((pure a : Exec α) >>= f) s = f a s := rfl

/-- A sequence that ended well ran its first part well. -/
theorem ok_of_bind {x : Exec α} {f : α → Exec β} {b : β} (h : (x >>= f) s = .ok b u) :
    ∃ a t, x s = .ok a t ∧ f a t = .ok b u := by
  rw [bind_apply] at h
  cases hx : x s with
  | ok a t => rw [hx] at h; exact ⟨a, t, rfl, h⟩
  | error e t => rw [hx] at h; cases h

/-- A sequence that stopped, stopped in its first part or after it. -/
theorem error_of_bind {x : Exec α} {f : α → Exec β} {e : Stop} (h : (x >>= f) s = .error e u) :
    x s = .error e u ∨ ∃ a t, x s = .ok a t ∧ f a t = .error e u := by
  rw [bind_apply] at h
  cases hx : x s with
  | ok a t => rw [hx] at h; exact .inr ⟨a, t, rfl, h⟩
  | error e' t =>
    rw [hx] at h
    cases h
    exact .inl rfl

/-! ### How a meaning ends -/

theorem perform_completed {body : Exec Done} {cost : Cost} (h : body s = .ok (.completed cost) t) :
    perform body s = .next (completes cost t) := by rw [perform, h]; rfl

theorem perform_group2 {body : Exec Done} {v : Byte} {cost : Cost}
    (h : body s = .ok (.group2 v cost) t) :
    perform body s = takeException .group2 cost v t.pc none t := by rw [perform, h]

theorem perform_addressError {body : Exec Done} (h : body s = .error .addressError t) :
    perform body s = addressError t := by rw [perform, h]

theorem perform_fault {body : Exec Done} {f : Fault} (h : body s = .error (.fault f) t) :
    perform body s = .fault f := by rw [perform, h]

theorem privileged_supervisor (body : Exec Done) (h : s.flagS = true) :
    privileged body s = perform body s := by rw [privileged, if_pos h]

theorem privileged_user (body : Exec Done) (h : s.flagS = false) :
    privileged body s = decodeTimeException 8 (·.exception.privilege) s := by
  rw [privileged, if_neg (by simp [h])]

/-- The ends of a meaning: it completes, or it takes a group 2 exception, or it runs into an address
error. -/
theorem next_of_perform {body : Exec Done} (h : perform body s = .next u) :
    (∃ cost t, body s = .ok (.completed cost) t ∧ u = completes cost t) ∨
    (∃ v cost t, body s = .ok (.group2 v cost) t ∧
      takeException .group2 cost v t.pc none t = .next u) ∨
    (∃ t, body s = .error .addressError t ∧ addressError t = .next u) := by
  unfold perform at h
  split at h
  · next cost t hb => exact .inl ⟨cost, t, hb, by cases h; rfl⟩
  · next v cost t hb => exact .inr (.inl ⟨v, cost, t, hb, h⟩)
  · next t hb => exact .inr (.inr ⟨t, hb, h⟩)
  · cases h

/-! ### States that agree but for FC and the calls -/

theorem sameButBus_iff :
    SameButBus t u ↔ ∃ fc calls, t = { u with fc := fc, calls := calls } :=
  ⟨fun h => ⟨_, _, h⟩, fun ⟨_, _, h⟩ => by subst h; rfl⟩

theorem SameButBus.refl (s : State) : SameButBus s s := rfl

theorem SameButBus.trans (h : SameButBus s t) (k : SameButBus t u) : SameButBus s u := by
  obtain ⟨_, _, rfl⟩ := sameButBus_iff.1 k
  obtain ⟨_, _, rfl⟩ := sameButBus_iff.1 h
  rfl

theorem SameButBus.symm (h : SameButBus s t) : SameButBus t s := by
  obtain ⟨_, _, rfl⟩ := sameButBus_iff.1 h
  rfl

/-- A state change that neither reads nor writes FC and the calls keeps the agreement. -/
theorem SameButBus.map (h : SameButBus t u) (f : State → State)
    (hf : ∀ s fc calls, f { s with fc := fc, calls := calls } =
      { f s with fc := fc, calls := calls } := by intros; rfl) :
    SameButBus (f t) (f u) := by
  obtain ⟨fc, calls, rfl⟩ := sameButBus_iff.1 h
  exact sameButBus_iff.2 ⟨fc, calls, hf u fc calls⟩

/-- What does not read FC and the calls is the same of both. -/
theorem SameButBus.congr (h : SameButBus t u) (f : State → α)
    (hf : ∀ s fc calls, f { s with fc := fc, calls := calls } = f s := by intros; rfl) :
    f t = f u := by
  obtain ⟨fc, calls, rfl⟩ := sameButBus_iff.1 h
  exact hf u fc calls

theorem SameButBus.completes (h : SameButBus t u) (cost : Cost) :
    SameButBus (completes cost t) (completes cost u) := h.map _

theorem SameButBus.setFlags (h : SameButBus t u) (f : Flags) :
    SameButBus (t.setFlags f) (u.setFlags f) := h.map fun s => s.setFlags f

theorem SameButBus.mergeD (h : SameButBus t u) (sz : Size) (n : Reg) (v : Long) :
    SameButBus (t.mergeD sz n v) (u.mergeD sz n v) := h.map fun s => s.mergeD sz n v

theorem SameButBus.writeD (h : SameButBus t u) (n : Reg) (v : Long) :
    SameButBus (t.writeD n v) (u.writeD n v) := h.map fun s => s.writeD n v

theorem SameButBus.setPc (h : SameButBus t u) (v : Long) :
    SameButBus (t.setPc v) (u.setPc v) := h.map fun s => s.setPc v

theorem SameButBus.skipWords (h : SameButBus t u) (n : Nat) :
    SameButBus (skipWords n t) (skipWords n u) := h.map (Machine.skipWords n)

theorem SameButBus.putMem (h : SameButBus t u) (sz : Size) (a v : Long) :
    SameButBus (putMem sz a v t) (putMem sz a v u) := h.map (Machine.putMem sz a v)

theorem State.setActiveSp_eq (s : State) (v : Long) :
    s.setActiveSp v = { s with
      usp := if s.flagS then s.usp else v
      ssp := if s.flagS then v else s.ssp } := by
  unfold State.setActiveSp
  split <;> rfl

theorem State.writeA_eq (s : State) (n : Reg) (v : Long) :
    s.writeA n v = { s with
      a := if h : n.val < 7 then s.a.set n.val v else s.a
      usp := if n.val < 7 ∨ s.flagS then s.usp else v
      ssp := if ¬n.val < 7 ∧ s.flagS then v else s.ssp } := by
  unfold State.writeA
  split
  · next h => simp [h]
  · next h => rw [State.setActiveSp_eq]; simp [h]

theorem SameButBus.setActiveSp (h : SameButBus t u) (v : Long) :
    SameButBus (t.setActiveSp v) (u.setActiveSp v) :=
  h.map (fun s => s.setActiveSp v) fun s _ _ => by
    rw [State.setActiveSp_eq, State.setActiveSp_eq]; rfl

theorem SameButBus.writeA (h : SameButBus t u) (n : Reg) (v : Long) :
    SameButBus (t.writeA n v) (u.writeA n v) :=
  h.map (fun s => s.writeA n v) fun s _ _ => by
    rw [State.writeA_eq, State.writeA_eq]; rfl

/-- An outcome of a state that agrees. -/
theorem SameButBus.reaches (h : SameButBus t u) : Reaches (.next t) u := ⟨t, rfl, h⟩

end Sys2Proof.Machine
end

