-- ==== Sys2Proof/Laws/Memory.lean ====
section
/-!
SUPPORT. Memory: reading after writing, and the canonical form, kept by every operation that writes.
-/

namespace Sys2Proof.Machine

theorem Memory.read_nil (a : Nat) : Memory.read [] a = Memory.unlisted := rfl

theorem Memory.read_head (k : Nat) (v : Byte) (m : Memory) (a : Nat) :
    Memory.read ((k, v) :: m) a = if k = a then v else Memory.read m a := rfl

/-- An address below every listed one reads as unlisted. -/
theorem Memory.read_below {m : Memory} {a : Nat} (h : ∀ c ∈ m, a < c.1) :
    m.read a = Memory.unlisted := by
  induction m with
  | nil => rfl
  | cons c m ih =>
    have := h c (by simp)
    rw [Memory.read_head, if_neg (by omega), ih fun c hc => h c (by simp [hc])]

theorem Memory.read_cons_other {m : Memory} {a b : Nat} (v : Byte) (h : a ≠ b) :
    Memory.read (Memory.cons a v m) b = m.read b := by
  unfold Memory.cons
  split
  · rfl
  · rw [Memory.read_head, if_neg h]

theorem Memory.read_cons_same {m : Memory} {a : Nat} (v : Byte) (h : ∀ c ∈ m, a < c.1) :
    Memory.read (Memory.cons a v m) a = v := by
  unfold Memory.cons
  split
  · next hv => rw [Memory.read_below h, hv]
  · rw [Memory.read_head, if_pos rfl]

/-- A write leaves every other place alone. -/
theorem Memory.read_write_other (m : Memory) {a b : Nat} (v : Byte) (h : a ≠ b) :
    (m.write a v).read b = m.read b := by
  induction m with
  | nil => exact Memory.read_cons_other v h
  | cons c m ih =>
    obtain ⟨k, u⟩ := c
    unfold Memory.write
    split
    · exact Memory.read_cons_other v h
    · split
      · next hk => subst hk; rw [Memory.read_cons_other v h, Memory.read_head, if_neg h]
      · rw [Memory.read_head, Memory.read_head, ih]

theorem Memory.wf_cons_iff (k : Nat) (v : Byte) (m : Memory) :
    Memory.wf ((k, v) :: m) = true ↔
      k < 2 ^ 24 ∧ v ≠ Memory.unlisted ∧ (∀ c ∈ m, k < c.1) ∧ m.wf = true := by
  simp [Memory.wf, and_assoc]

/-- A read after a write to the same place gives the value written. -/
theorem Memory.read_write_same {m : Memory} (hm : m.wf = true) (a : Nat) (v : Byte) :
    (m.write a v).read a = v := by
  induction m with
  | nil => exact Memory.read_cons_same v (by simp)
  | cons c m ih =>
    obtain ⟨k, u⟩ := c
    obtain ⟨-, -, hk, hw⟩ := (Memory.wf_cons_iff k u m).1 hm
    unfold Memory.write
    split
    · next h =>
      refine Memory.read_cons_same v fun c hc => ?_
      rcases List.mem_cons.1 hc with rfl | hc
      · exact h
      · exact Nat.lt_trans h (hk c hc)
    · split
      · next h => subst h; exact Memory.read_cons_same v hk
      · next h1 h2 => rw [Memory.read_head, if_neg fun e => h2 e.symm, ih hw]

/-- The byte at any address after a write. -/
theorem Memory.read_write {m : Memory} (hm : m.wf = true) (a b : Nat) (v : Byte) :
    (m.write a v).read b = if a = b then v else m.read b := by
  split
  · next h => subst h; exact Memory.read_write_same hm a v
  · next h => exact Memory.read_write_other m v h

theorem Memory.wf_cons {m : Memory} {a : Nat} (v : Byte) (ha : a < 2 ^ 24) (hm : m.wf = true)
    (h : ∀ c ∈ m, a < c.1) : (Memory.cons a v m).wf = true := by
  unfold Memory.cons
  split
  · exact hm
  · next hv => exact (Memory.wf_cons_iff a v m).2 ⟨ha, hv, h, hm⟩

/-- The addresses listed after a write are the one written and those listed before. -/
theorem Memory.mem_write {m : Memory} {a : Nat} {v : Byte} {c : Host.Cell}
    (h : c ∈ m.write a v) : c.1 = a ∨ c ∈ m := by
  induction m with
  | nil =>
    simp only [Memory.write, Memory.cons] at h
    split at h <;> simp_all
  | cons d m ih =>
    obtain ⟨k, u⟩ := d
    simp only [Memory.write, Memory.cons] at h
    split at h
    · split at h
      · exact .inr h
      · rcases List.mem_cons.1 h with rfl | h
        · exact .inl rfl
        · exact .inr h
    · split at h
      · split at h
        · simp_all
        · rcases List.mem_cons.1 h with rfl | h <;> simp_all
      · rcases List.mem_cons.1 h with rfl | h
        · simp
        · rcases ih h with h | h <;> simp_all

/-- A write keeps the canonical form. -/
theorem Memory.wf_write {m : Memory} {a : Nat} (v : Byte) (hm : m.wf = true) (ha : a < 2 ^ 24) :
    (m.write a v).wf = true := by
  induction m with
  | nil => exact Memory.wf_cons v ha rfl (by simp)
  | cons c m ih =>
    obtain ⟨k, u⟩ := c
    obtain ⟨hk24, hu, hk, hw⟩ := (Memory.wf_cons_iff k u m).1 hm
    unfold Memory.write
    split
    · next h =>
      refine Memory.wf_cons v ha hm fun c hc => ?_
      rcases List.mem_cons.1 hc with rfl | hc
      · exact h
      · exact Nat.lt_trans h (hk c hc)
    · split
      · next h => subst h; exact Memory.wf_cons v ha hw hk
      · next h1 h2 =>
        refine (Memory.wf_cons_iff k u _).2 ⟨hk24, hu, fun c hc => ?_, ih hw⟩
        rcases Memory.mem_write hc with h | h
        · omega
        · exact hk c h

/-- Canonical memories that read alike are equal. -/
theorem Memory.ext {m n : Memory} (hm : m.wf = true) (hn : n.wf = true)
    (h : ∀ a, m.read a = n.read a) : m = n := by
  induction m generalizing n with
  | nil =>
    cases n with
    | nil => rfl
    | cons c n =>
      obtain ⟨k, u⟩ := c
      have := h k
      rw [Memory.read_head, if_pos rfl] at this
      exact absurd this.symm ((Memory.wf_cons_iff k u n).1 hn).2.1
  | cons c m ih =>
    obtain ⟨k, u⟩ := c
    obtain ⟨-, hu, hk, hw⟩ := (Memory.wf_cons_iff k u m).1 hm
    cases n with
    | nil =>
      have := h k
      rw [Memory.read_head, if_pos rfl] at this
      exact absurd this hu
    | cons c' n =>
      obtain ⟨k', u'⟩ := c'
      obtain ⟨-, hu', hk', hw'⟩ := (Memory.wf_cons_iff k' u' n).1 hn
      have hkk : k = k' := by
        rcases Nat.lt_trichotomy k k' with hl | he | hl
        · have := h k
          rw [Memory.read_head, if_pos rfl, Memory.read_head, if_neg (by omega),
            Memory.read_below fun c hc => Nat.lt_trans hl (hk' c hc)] at this
          exact absurd this hu
        · exact he
        · have := h k'
          rw [Memory.read_head, if_neg (by omega), Memory.read_head, if_pos rfl,
            Memory.read_below fun c hc => Nat.lt_trans hl (hk c hc)] at this
          exact absurd this.symm hu'
      subst hkk
      have huu := h k
      rw [Memory.read_head, if_pos rfl, Memory.read_head, if_pos rfl] at huu
      subst huu
      congr 1
      refine ih hw hw' fun a => ?_
      rcases Nat.lt_trichotomy k a with hl | he | hl
      · have := h a
        rwa [Memory.read_head, if_neg (by omega), Memory.read_head, if_neg (by omega)] at this
      · subst he
        rw [Memory.read_below hk, Memory.read_below hk']
      · rw [Memory.read_below fun c hc => Nat.lt_trans hl (hk c hc),
          Memory.read_below fun c hc => Nat.lt_trans hl (hk' c hc)]

/-- Writes to two places may be made in either order. -/
theorem Memory.write_comm {m : Memory} (hm : m.wf = true) {a b : Nat} (ha : a < 2 ^ 24)
    (hb : b < 2 ^ 24) (hab : a ≠ b) (u v : Byte) :
    (m.write a u).write b v = (m.write b v).write a u := by
  have h1 := Memory.wf_write u hm ha
  have h2 := Memory.wf_write v hm hb
  refine Memory.ext (Memory.wf_write v h1 hb) (Memory.wf_write u h2 ha) fun c => ?_
  rw [Memory.read_write h1, Memory.read_write h2, Memory.read_write hm, Memory.read_write hm]
  split <;> split <;> simp_all

theorem State.reset_mem_wf : State.reset.mem.wf = true := rfl

/-! ### The operations that write -/

theorem wf_pokeByte {s : State} (hs : s.mem.wf = true) (a : Addr) (v : Byte) :
    (pokeByte a v s).mem.wf = true := by
  unfold pokeByte
  split
  · exact Memory.wf_write v hs a.isLt
  · exact hs

theorem wf_pokeBytes {s : State} (hs : s.mem.wf = true) (a : Addr) (vs : List Byte) :
    (pokeBytes a vs s).mem.wf = true := by
  induction vs generalizing a s with
  | nil => exact hs
  | cons v vs ih => exact ih (wf_pokeByte hs a v) (a + 1)

theorem pokeByte_pointer {s : State} {a : Addr} (h : s.region a = .pointer) (v : Byte) :
    pokeByte a v s = { s with mem := s.mem.write a.toNat v } := if_pos h

theorem read_pokeByte_other (s : State) {a b : Addr} (v : Byte) (h : b ≠ a) :
    (pokeByte a v s).mem.read b.toNat = s.mem.read b.toNat := by
  unfold pokeByte
  split
  · exact Memory.read_write_other _ v fun e => h (BitVec.eq_of_toNat_eq e.symm)
  · rfl

end Sys2Proof.Machine
end

