-- ==== Sys2Proof/Laws/Access.lean ====
section
/-!
SUPPORT. What each access does, one lemma each: with the default callbacks, an aligned access inside
pointer-backed regions answers what memory holds, or stores; an odd one is an address error.
-/

namespace Sys2Proof.Machine

/-! ### Addresses -/

@[simp] theorem busAddr_getLsbD_zero (a : Long) : (busAddr a).getLsbD 0 = a.getLsbD 0 := by
  simp [busAddr]

theorem busAddr_add (a b : Long) : busAddr (a + b) = busAddr a + busAddr b := by
  simp [busAddr, BitVec.setWidth_add]

theorem even_iff (a : Addr) : a.getLsbD 0 = false ↔ a.toNat % 2 = 0 := by
  simp [BitVec.getLsbD, Nat.testBit_zero]

/-- The second byte of a word at an even address is in the region of the first (R101). -/
theorem regionOf_succ {a : Addr} (h : a.getLsbD 0 = false) : regionOf (a + 1) = regionOf a := by
  have h2 := (even_iff a).1 h
  have := a.isLt
  apply Fin.ext
  show (BitVec.extractLsb' 16 8 (a + 1)).toNat = (BitVec.extractLsb' 16 8 a).toNat
  have h1 : (1 : Addr).toNat = 1 := rfl
  simp only [BitVec.extractLsb'_toNat, BitVec.toNat_add, Nat.shiftRight_eq_div_pow, h1]
  omega

theorem region_succ (s : State) {a : Addr} (h : a.getLsbD 0 = false) :
    s.region (a + 1) = s.region a := by
  simp only [State.region, regionOf_succ h]

/-! ### Function codes -/

theorem sameButBus_driven (fc : BitVec 3) (s : State) : SameButBus (driven fc s) s := by
  unfold driven
  split
  · rfl
  · rfl

theorem quiet_handlers {s : State} (h : quiet s = true) : s.handlers = {} := by
  simpa [quiet] using h

/-- Driving FC with the default callback. -/
theorem driveFc_quiet {s : State} (h : quiet s = true) (fc : BitVec 3) :
    driveFc fc s = .ok () (driven fc s) := by
  have hf := quiet_handlers h
  unfold driveFc driven
  rw [look_bind]
  simp only [id]
  split
  · simp [callHandler, recordCall, hf]
  · rfl

/-! ### The bus -/

theorem busRead8_pointer {s : State} {a : Addr} (h : s.region a = .pointer) :
    busRead8 a s = .ok (s.mem.read a.toNat) s := by
  simp only [busRead8, look_bind, id, h]
  rfl

theorem busRead16_pointer {s : State} {a : Addr} (h : s.region a = .pointer) :
    busRead16 a s = .ok (s.mem.read a.toNat ++ s.mem.read (a + 1).toNat) s := by
  simp only [busRead16, look_bind, id, h]
  rfl

theorem busWrite8_pointer {s : State} {a : Addr} (h : s.region a = .pointer) (v : Byte) :
    busWrite8 a v s = .ok () { s with mem := s.mem.write a.toNat v } := by
  simp only [busWrite8, look_bind, id, h, update_apply, pokeByte_pointer h]

theorem busWrite16_pointer {s : State} {a : Addr} (ha : a.getLsbD 0 = false)
    (h : s.region a = .pointer) (v : Word) :
    busWrite16 a v s = .ok () { s with
      mem := (s.mem.write a.toNat (v.extractLsb' 8 8)).write (a + 1).toNat
        (v.extractLsb' 0 8) } := by
  have h1 : s.region (a + 1) = .pointer := by rw [region_succ s ha, h]
  simp only [busWrite16, look_bind, id, h, update_apply, pokeBytes, pokeByte_pointer h]
  rw [pokeByte_pointer (s := { s with mem := s.mem.write a.toNat (v.extractLsb' 8 8) }) h1]

/-! ### What an accessible place says -/

theorem accessible_aligned {s : State} {sz : Size} {a : Long} (h : accessible s sz a = true) :
    misaligned sz a = false := by
  simp only [accessible, Bool.and_eq_true, Bool.not_eq_true'] at h
  exact h.1.1

theorem accessible_even {s : State} {sz : Size} {a : Long} (h : accessible s sz a = true)
    (hsz : sz ≠ .b) : a.getLsbD 0 = false := by
  have := accessible_aligned h
  cases sz <;> simp_all [misaligned]

theorem accessible_first {s : State} {sz : Size} {a : Long} (h : accessible s sz a = true) :
    s.region (busAddr a) = .pointer := by
  simp only [accessible, backed, Bool.and_eq_true, beq_iff_eq] at h
  exact h.1.2

theorem accessible_second {s : State} {a : Long} (h : accessible s .l a = true) :
    s.region (busAddr (a + 2)) = .pointer := by
  simp only [accessible, backed, Bool.and_eq_true, Bool.or_eq_true, beq_iff_eq, bne_iff_ne] at h
  exact h.2.resolve_left (by decide)

/-! ### Loads and stores of data (R110, R111, R130) -/

theorem busRead_accessible {s : State} {sz : Size} {a : Long} (h : accessible s sz a = true) :
    busRead sz a s = .ok (valueAt s sz a) s := by
  have h1 := accessible_first h
  cases sz with
  | b => rw [busRead, bind_ok _ (busRead8_pointer h1)]; rfl
  | w => rw [busRead, bind_ok _ (busRead16_pointer h1)]; rfl
  | l =>
    rw [busRead, bind_ok _ (busRead16_pointer h1),
      bind_ok _ (busRead16_pointer (accessible_second h))]
    rfl

theorem storeBytes_byte (m : Memory) (a v : Long) :
    storeBytes m .b a v = m.write (busAddr a).toNat (v.setWidth 8) := by
  simp [storeBytes, bytesFrom, valueBytes, bytesOf, BitVec.setWidth_eq_extractLsb']

theorem storeBytes_word (m : Memory) (a v : Long) :
    storeBytes m .w a v = (m.write (busAddr a).toNat (v.extractLsb' 8 8)).write
      (busAddr a + 1).toNat (v.extractLsb' 0 8) := by
  simp [storeBytes, bytesFrom, valueBytes, bytesOf, List.range_succ]

/-- A long is stored as two words, the high one first (R104). -/
theorem storeBytes_long (m : Memory) (a v : Long) :
    storeBytes m .l a v = storeBytes (storeBytes m .w a (v >>> 16)) .w (a + 2) v := by
  have h1 : (v >>> 16).extractLsb' 8 8 = v.extractLsb' 24 8 := by
    ext i hi; simp [← Nat.add_assoc]
  have h2 : (v >>> 16).extractLsb' 0 8 = v.extractLsb' 16 8 := by
    ext i hi; simp
  have h3 : busAddr (a + 2) = busAddr a + 2 := busAddr_add a 2
  have h4 : busAddr a + 2 + 1 = busAddr a + 3 := by rw [BitVec.add_assoc]; rfl
  rw [storeBytes_word, storeBytes_word, h1, h2, h3, h4]
  simp [storeBytes, bytesFrom, valueBytes, bytesOf, List.range_succ]

theorem busWrite16_word {s : State} {a : Long} (he : a.getLsbD 0 = false)
    (h : s.region (busAddr a) = .pointer) (w : Word) (v : Long) (hw : w = v.setWidth 16) :
    busWrite16 (busAddr a) w s = .ok () (putMem .w a v s) := by
  have h1 : (v.setWidth 16).extractLsb' 8 8 = v.extractLsb' 8 8 := by
    ext i hi
    simp
    omega
  have h2 : (v.setWidth 16).extractLsb' 0 8 = v.extractLsb' 0 8 := by
    ext i hi
    simp
    omega
  rw [busWrite16_pointer ((busAddr_getLsbD_zero a).trans he) h, hw, h1, h2, putMem, storeBytes_word]

theorem busWrite_accessible {s : State} {sz : Size} {a : Long} (h : accessible s sz a = true)
    (v : Long) : busWrite sz a v s = .ok () (putMem sz a v s) := by
  have h1 := accessible_first h
  cases sz with
  | b => rw [busWrite, busWrite8_pointer h1, putMem, storeBytes_byte]
  | w => exact busWrite16_word (accessible_even h (by decide)) h1 _ v rfl
  | l =>
    have he := accessible_even h (by decide)
    have he2 : (a + 2).getLsbD 0 = false := by
      simpa [BitVec.getLsbD, Nat.testBit_zero] using he
    have h2 := busWrite16_word he h1 (v.extractLsb' 16 16) (v >>> 16) (by
      ext i hi; simp)
    rw [busWrite, bind_ok _ h2]
    refine (busWrite16_word (s := putMem .w a (v >>> 16) s) he2 (accessible_second h) _ v
      (BitVec.setWidth_eq_extractLsb' (by decide)).symm).trans ?_
    simp only [putMem, storeBytes_long]

/-! ### Accessing in a state that agrees -/

theorem accessible_driven (fc : BitVec 3) (s : State) (sz : Size) (a : Long) :
    accessible (driven fc s) sz a = accessible s sz a :=
  (sameButBus_driven fc s).congr fun s => accessible s sz a

theorem valueAt_driven (fc : BitVec 3) (s : State) (sz : Size) (a : Long) :
    valueAt (driven fc s) sz a = valueAt s sz a :=
  (sameButBus_driven fc s).congr fun s => valueAt s sz a

theorem quiet_driven (fc : BitVec 3) (s : State) : quiet (driven fc s) = quiet s :=
  (sameButBus_driven fc s).congr quiet

/-- A load (R110): the value memory holds, FC driven. -/
theorem memRead_accessible {s : State} {sz : Size} {a : Long} (ph : Phase)
    (hq : quiet s = true) (h : accessible s sz a = true) :
    memRead ph sz a s = .ok (valueAt s sz a) (driven s.dataFc s) := by
  rw [memRead, look_bind, if_neg (by simp [accessible_aligned h]), bind_ok _ (driveFc_quiet hq _),
    busRead_accessible (by rwa [accessible_driven]), valueAt_driven]

/-- A load at an odd address (R113). -/
theorem memRead_misaligned {s : State} {sz : Size} {a : Long} (ph : Phase)
    (h : misaligned sz a = true) :
    memRead ph sz a s = .error .addressError { s with
      aerrAddress := a, aerrWrite := false, aerrInstr := ph == .instruction,
      aerrFc := s.dataFc } := by
  rw [memRead, look_bind, if_pos h]
  rfl

theorem hazardCheck_clear {pc a : Long} {sz : Size} (s : State)
    (h : clearOf pc a sz = true) : hazardCheck pc a (bytesOf sz) s = .ok () s := by
  cases hb : (bytesFrom a (bytesOf sz)).find? (inWindow pc) with
  | some b =>
    have h1 := List.find?_some hb
    have h2 := List.all_eq_true.1 h b (List.mem_of_find?_eq_some hb)
    simp [h1] at h2
  | none => simp only [hazardCheck, hb, pure_apply]

/-- A store (R111): the bytes put in memory, FC driven; an instruction's is clear of the window of
R130. -/
theorem memWrite_accessible {s : State} {sz : Size} {a : Long} (ph : Phase)
    (hq : quiet s = true) (h : accessible s sz a = true)
    (hc : ph = .instruction → clearOf s.pc a sz = true) (v : Long) :
    memWrite ph sz a v s = .ok () (putMem sz a v (driven s.dataFc s)) := by
  have hpc : (driven s.dataFc s).pc = s.pc := (sameButBus_driven _ s).congr State.pc
  unfold memWrite
  rw [look_bind, if_neg (by simp [accessible_aligned h]), bind_ok _ (driveFc_quiet hq _),
    bind_ok _ (busWrite_accessible (by rwa [accessible_driven]) v)]
  cases ph with
  | instruction =>
    exact hazardCheck_clear (pc := (driven s.dataFc s).pc) _ (by rw [hpc]; exact hc rfl)
  | exception => rfl

/-- A store at an odd address (R113): nothing is stored. -/
theorem memWrite_misaligned {s : State} {sz : Size} {a : Long} (ph : Phase)
    (h : misaligned sz a = true) (v : Long) :
    memWrite ph sz a v s = .error .addressError { s with
      aerrAddress := a, aerrWrite := true, aerrInstr := ph == .instruction,
      aerrFc := s.dataFc } := by
  unfold memWrite
  rw [look_bind, if_pos h]
  rfl

theorem sameButBus_memRead {s : State} {sz : Size} {a : Long} (ph : Phase) (hq : quiet s = true)
    (h : accessible s sz a = true) :
    ∃ t, memRead ph sz a s = .ok (valueAt s sz a) t ∧ SameButBus t s :=
  ⟨_, memRead_accessible ph hq h, sameButBus_driven _ s⟩

theorem sameButBus_memWrite {s : State} {sz : Size} {a : Long} (ph : Phase) (hq : quiet s = true)
    (h : accessible s sz a = true) (hc : ph = .instruction → clearOf s.pc a sz = true) (v : Long) :
    ∃ t, memWrite ph sz a v s = .ok () t ∧ SameButBus t (putMem sz a v s) :=
  ⟨_, memWrite_accessible ph hq h hc v, (sameButBus_driven _ s).putMem sz a v⟩

/-! ### Stacks -/

/-- A push (R123). -/
theorem push_accessible {s : State} {sz : Size} (ph : Phase) (hq : quiet s = true)
    (h : accessible s sz (s.activeSp - BitVec.ofNat 32 (bytesOf sz)) = true)
    (hc : ph = .instruction →
      clearOf s.pc (s.activeSp - BitVec.ofNat 32 (bytesOf sz)) sz = true) (v : Long) :
    ∃ t, push ph sz v s = .ok () t ∧ SameButBus t (pushed sz v s) := by
  have hs : ∀ w, (s.setActiveSp w).activeSp = w := fun w => by
    rw [State.setActiveSp_eq]
    show (if s.flagS then (if s.flagS then w else s.ssp) else if s.flagS then s.usp else w) = w
    cases s.flagS <;> rfl
  rw [push, update_bind, look_bind, hs]
  obtain ⟨t, h1, h2⟩ := sameButBus_memWrite (sz := sz)
    (s := s.setActiveSp (s.activeSp - BitVec.ofNat 32 (bytesOf sz))) ph
    (by rw [State.setActiveSp_eq]; exact hq) (by rw [State.setActiveSp_eq]; exact h)
    (by rw [State.setActiveSp_eq]; exact hc) v
  refine ⟨t, h1, ?_⟩
  rw [pushed]
  simpa only [hs] using h2

/-- A pop (R123). -/
theorem pop_accessible {s : State} {sz : Size} (ph : Phase) (hq : quiet s = true)
    (h : accessible s sz s.activeSp = true) :
    ∃ t, pop ph sz s = .ok (valueAt s sz s.activeSp) t ∧ SameButBus t (popped sz s) := by
  obtain ⟨t, h1, h2⟩ := sameButBus_memRead ph hq h
  refine ⟨_, by rw [pop, look_bind, bind_ok _ h1, update_bind, pure_apply], ?_⟩
  exact h2.map (popped sz) fun s _ _ => by
    simp only [popped, State.setActiveSp_eq]
    rfl

/-! ### Fetching (R114, R115) -/

theorem fastWord_backed {s : State} {a : Long} (h : backed s a = true) :
    fastWord a s = .ok (wordAt s a) s := by
  have hr : s.region (busAddr a) = .pointer := by simpa [backed] using h
  rw [fastWord, look_bind]
  simp only [id, hr, if_true, pure_apply, wordAt]

theorem fetchable_one {s : State} {pc : Long} (h : fetchable s pc 1 = true) :
    pc.getLsbD 0 = false ∧ backed s pc = true := by
  simpa [fetchable] using h

theorem fetchable_two {s : State} {pc : Long} (h : fetchable s pc 2 = true) :
    fetchable s pc 1 = true ∧ fetchable s (pc + 2) 1 = true := by
  have h0 : (pc + 2).getLsbD 0 = pc.getLsbD 0 := by
    simp [BitVec.getLsbD, Nat.testBit_zero]
  simp [fetchable, List.range_succ] at h ⊢
  simp_all

/-- A fetch of one word (R114). -/
theorem fetchWord_fetchable {s : State} (hq : quiet s = true) (h : fetchable s s.pc 1 = true) :
    fetchWord s = .ok (wordAt s s.pc) (skipWords 1 (driven s.programFc s)) := by
  obtain ⟨he, hb⟩ := fetchable_one h
  have hb' : backed (driven s.programFc s) s.pc = true :=
    ((sameButBus_driven _ s).congr fun t => backed t s.pc).trans hb
  have hw : wordAt (driven s.programFc s) s.pc = wordAt s s.pc :=
    (sameButBus_driven _ s).congr fun t => wordAt t s.pc
  have hp : (driven s.programFc s).pc = s.pc := (sameButBus_driven _ s).congr State.pc
  rw [fetchWord, look_bind, look_bind, if_neg (by rw [he]; exact Bool.false_ne_true),
    bind_ok _ (driveFc_quiet hq _), bind_ok _ (fastWord_backed hb'), update_bind, pure_apply, hw,
    skipWords, hp]
  rfl

theorem sameButBus_fetchWord {s : State} (hq : quiet s = true) (h : fetchable s s.pc 1 = true) :
    ∃ t, fetchWord s = .ok (wordAt s s.pc) t ∧ SameButBus t (skipWords 1 s) :=
  ⟨_, fetchWord_fetchable hq h, (sameButBus_driven _ s).skipWords 1⟩

/-- A fetch of two words (R115). -/
theorem sameButBus_fetchLong {s : State} (hq : quiet s = true) (h : fetchable s s.pc 2 = true) :
    ∃ t, fetchLong s = .ok (wordAt s s.pc ++ wordAt s (s.pc + 2)) t ∧
      SameButBus t (skipWords 2 s) := by
  obtain ⟨h1, h2⟩ := fetchable_two h
  obtain ⟨t, e1, b1⟩ := sameButBus_fetchWord hq h1
  obtain ⟨fc, calls, rfl⟩ := sameButBus_iff.1 b1
  obtain ⟨u, e2, b2⟩ := sameButBus_fetchWord
    (s := { skipWords 1 s with fc := fc, calls := calls }) hq h2
  refine ⟨u, by rw [fetchLong, bind_ok _ e1, bind_ok _ e2]; rfl, b2.trans ?_⟩
  refine sameButBus_iff.2 ⟨fc, calls, ?_⟩
  simp only [skipWords, State.setPc, BitVec.add_assoc]
  rfl

theorem sameButBus_immediate {s : State} {sz : Size} (hq : quiet s = true)
    (h : fetchable s s.pc (immWords sz) = true) :
    ∃ t, immediate sz s = .ok (immAt s sz) t ∧ SameButBus t (skipWords (immWords sz) s) := by
  cases sz with
  | b =>
    obtain ⟨t, e, b⟩ := sameButBus_fetchWord hq h
    exact ⟨t, by rw [immediate, bind_ok _ e]; rfl, b⟩
  | w =>
    obtain ⟨t, e, b⟩ := sameButBus_fetchWord hq h
    exact ⟨t, by rw [immediate, bind_ok _ e]; rfl, b⟩
  | l => exact sameButBus_fetchLong hq h

end Sys2Proof.Machine
end

