-- ==== Sys2Proof/Laws/Frame.lean ====
section
/-!
SUPPORT. What an access may change, whatever the callbacks do: `Calm w s t` says that `t` differs
from `s` in nothing but pc, FC, the record of calls, the script, the draws, the interrupt and halt
inputs, and the bytes of memory, of which only those in `w` change while no host move is to come.
One lemma for each shared operation says that it is calm, and `Calm.trans` puts them together.
-/

namespace Sys2Proof.Machine

/-- The difference that accesses alone make. -/
structure Calm (w : List Addr) (s t : State) : Prop where
  eq : t = { s with
    pc := t.pc, fc := t.fc, calls := t.calls, script := t.script, draws := t.draws
    intLevel := t.intLevel, nmiPending := t.nmiPending, delayedIrq := t.delayedIrq
    haltPin := t.haltPin, mem := t.mem }
  draws : s.draws ≤ t.draws
  fc : t.fc = s.fc ∨ (s.cfg.fcEmulation = true ∧ legalFc t.fc = true)
  wf : s.mem.wf = true → t.mem.wf = true
  lines : s.script = [] → t.script = [] ∧ t.intLevel = s.intLevel ∧
    t.nmiPending = s.nmiPending ∧ t.delayedIrq = s.delayedIrq ∧ t.haltPin = s.haltPin
  bytes : s.script = [] → ∀ b : Addr, b ∉ w → t.mem.read b.toNat = s.mem.read b.toNat

/-- What a body may answer: a calm change; at an address error, a calm change but for the fault
fields (R113). -/
def Calmly {α : Type} (w : List Addr) (x : Exec α) (s : State) : Prop :=
  match x s with
  | .ok _ t => Calm w s t
  | .error .addressError t => Calm w s { t with
      aerrAddress := s.aerrAddress, aerrWrite := s.aerrWrite, aerrInstr := s.aerrInstr
      aerrFc := s.aerrFc }
  | .error (.fault _) _ => True

variable {α β : Type} {w v : List Addr} {s t u : State}

theorem Calm.refl (w : List Addr) (s : State) : Calm w s s where
  eq := rfl
  draws := Nat.le_refl _
  fc := .inl rfl
  wf := id
  lines := fun h => ⟨h, rfl, rfl, rfl, rfl⟩
  bytes := fun _ _ _ => rfl

theorem Calm.cfg (h : Calm w s t) : t.cfg = s.cfg := by rw [h.eq]

theorem Calm.mono (h : Calm w s t) (hw : ∀ b ∈ w, b ∈ v) : Calm v s t :=
  { h with bytes := fun hs b hb => h.bytes hs b fun hb' => hb (hw b hb') }

theorem Calm.trans (h : Calm w s t) (k : Calm v t u) : Calm (w ++ v) s u where
  eq := by
    have h1 := h.eq
    have h2 := k.eq
    rw [h1] at h2
    exact h2
  draws := Nat.le_trans h.draws k.draws
  fc := by
    rcases k.fc with k1 | k1
    · rw [k1]; exact h.fc
    · exact .inr ⟨h.cfg ▸ k1.1, k1.2⟩
  wf := fun hs => k.wf (h.wf hs)
  lines := fun hs => by
    obtain ⟨h0, h1, h2, h3, h4⟩ := h.lines hs
    obtain ⟨k0, k1, k2, k3, k4⟩ := k.lines h0
    exact ⟨k0, k1.trans h1, k2.trans h2, k3.trans h3, k4.trans h4⟩
  bytes := fun hs b hb => by
    rw [List.mem_append, not_or] at hb
    exact (k.bytes (h.lines hs).1 b hb.2).trans (h.bytes hs b hb.1)

theorem Calm.trans_nil (h : Calm [] s t) (k : Calm w t u) : Calm w s u := h.trans k

theorem Calm.trans_same (h : Calm w s t) (k : Calm w t u) : Calm w s u :=
  (h.trans k).mono fun b hb => by simpa using hb

theorem Calm.setPc (s : State) (p : Long) : Calm [] s (s.setPc p) :=
  { Calm.refl [] s with eq := rfl, lines := fun h => ⟨h, rfl, rfl, rfl, rfl⟩ }

/-! ### Bodies -/

theorem Calmly.ok {x : Exec α} (h : Calmly w x s) {a : α} (e : x s = .ok a t) : Calm w s t := by
  unfold Calmly at h
  rw [e] at h
  exact h

theorem Calmly.addressError {x : Exec α} (h : Calmly w x s) (e : x s = .error .addressError t) :
    Calm w s { t with
      aerrAddress := s.aerrAddress, aerrWrite := s.aerrWrite, aerrInstr := s.aerrInstr
      aerrFc := s.aerrFc } := by
  unfold Calmly at h
  rw [e] at h
  exact h

theorem calmly_pure (a : α) (s : State) : Calmly w (pure a : Exec α) s := Calm.refl w s

theorem calmly_look (f : State → α) (s : State) : Calmly w (look f) s := Calm.refl w s

theorem calmly_failWith (f : Fault) (s : State) : Calmly w (failWith f : Exec α) s := trivial

theorem calmly_update {f : State → State} (h : Calm w s (f s)) : Calmly w (update f) s := h

/-- A sequence of calm parts is calm. -/
theorem calmly_bind {x : Exec α} {f : α → Exec β} (hx : Calmly w x s)
    (hf : ∀ a t, x s = .ok a t → Calmly w (f a) t) : Calmly w (x >>= f) s := by
  unfold Calmly
  rw [bind_apply]
  cases e : x s with
  | ok a t =>
    have h1 := hx.ok e
    have h2 := hf a t e
    unfold Calmly at h2
    show (match f a t with
      | .ok _ t => Calm w s t
      | .error .addressError t => Calm w s { t with
          aerrAddress := s.aerrAddress, aerrWrite := s.aerrWrite, aerrInstr := s.aerrInstr
          aerrFc := s.aerrFc }
      | .error (.fault _) _ => True)
    have ea : t.aerrAddress = s.aerrAddress := by rw [h1.eq]
    have ew : t.aerrWrite = s.aerrWrite := by rw [h1.eq]
    have ei : t.aerrInstr = s.aerrInstr := by rw [h1.eq]
    have ef : t.aerrFc = s.aerrFc := by rw [h1.eq]
    cases ef' : f a t with
    | ok b u => rw [ef'] at h2; exact h1.trans_same h2
    | error st u =>
      cases st with
      | addressError =>
        rw [ef'] at h2
        simp only [ea, ew, ei, ef] at h2
        exact h1.trans_same h2
      | fault _ => trivial
  | error st t =>
    unfold Calmly at hx
    rw [e] at hx
    cases st with
    | addressError => exact hx
    | fault _ => trivial

theorem calmly_mono {x : Exec α} (h : Calmly w x s) (hw : ∀ b ∈ w, b ∈ v) : Calmly v x s := by
  unfold Calmly at h ⊢
  cases e : x s with
  | ok a t => rw [e] at h; exact h.mono hw
  | error st t =>
    rw [e] at h
    cases st with
    | addressError => exact h.mono hw
    | fault _ => trivial

theorem calmly_load {x : Exec α} (h : Calmly [] x s) : Calmly w x s :=
  calmly_mono h fun _ hb => by simp at hb

theorem calmly_drawLong (s : State) : Calmly w drawLong s :=
  { Calm.refl w s with
    eq := rfl, draws := Nat.le_succ _, lines := fun h => ⟨h, rfl, rfl, rfl, rfl⟩ }

theorem calmly_drawBit (s : State) : Calmly w drawBit s :=
  { Calm.refl w s with
    eq := rfl, draws := Nat.le_succ _, lines := fun h => ⟨h, rfl, rfl, rfl, rfl⟩ }

/-! ### The host's moves: calm once the script has begun -/

/-- A change that a host move may make: nothing else than lines and bytes. -/
structure Moved (s t : State) : Prop where
  eq : t = { s with
    intLevel := t.intLevel, nmiPending := t.nmiPending, delayedIrq := t.delayedIrq
    haltPin := t.haltPin, mem := t.mem }
  wf : s.mem.wf = true → t.mem.wf = true

theorem pokeBytes_moved (a : Addr) (vs : List Byte) (s : State) : Moved s (pokeBytes a vs s) where
  eq := by
    induction vs generalizing a s with
    | nil => rfl
    | cons v vs ih =>
      rw [pokeBytes, ih (a + 1) (pokeByte a v s)]
      unfold pokeByte
      split <;> rfl
  wf := fun h => wf_pokeBytes h a vs

theorem Moved.trans (h : Moved s t) (k : Moved t u) : Moved s u where
  eq := by
    have h1 := h.eq
    have h2 := k.eq
    rw [h1] at h2
    exact h2
  wf := fun hs => k.wf (h.wf hs)

theorem applyMove_moved {m : HostMove} {a : Unit} (e : applyMove m s = .ok a t) : Moved s t := by
  cases m with
  | setIrq l => cases e; exact ⟨rfl, id⟩
  | setIrqDelay l => cases e; exact ⟨rfl, id⟩
  | setHalt => cases e; exact ⟨rfl, id⟩
  | clearHalt => cases e; exact ⟨rfl, id⟩
  | writeBytes a vs => cases e; exact pokeBytes_moved a vs s
  | other op => cases e

theorem applyMoves_moved {ms : List HostMove} {a : Unit} (e : applyMoves ms s = .ok a t) :
    Moved s t := by
  induction ms generalizing s with
  | nil => cases e; exact ⟨rfl, id⟩
  | cons m ms ih =>
    obtain ⟨_, t', e1, e2⟩ := ok_of_bind e
    exact (applyMove_moved e1).trans (ih e2)

/-- The host's moves never meet an address error. -/
theorem applyMoves_error {ms : List HostMove} {st : Stop} (e : applyMoves ms s = .error st t) :
    ∃ f, st = .fault f := by
  induction ms generalizing s with
  | nil => cases e
  | cons m ms ih =>
    rcases error_of_bind e with e1 | ⟨_, _, _, e2⟩
    · cases m <;> cases e1
      exact ⟨_, rfl⟩
    · exact ih e2

/-- A host callback's answer is calm (R583): with no script it changes nothing but the draws. -/
theorem calmly_hostAnswer (s : State) : Calmly w hostAnswer s := by
  cases hs : s.script with
  | nil =>
    have e : hostAnswer s = drawLong s := by
      rw [hostAnswer, look_bind, hs]
    unfold Calmly
    rw [e]
    exact calmly_drawLong s
  | cons ans rest =>
    have e : hostAnswer s = (applyMoves ans.moves >>= fun _ => pure ans.value)
        { s with script := rest } := by
      rw [hostAnswer, look_bind, hs]
      rfl
    unfold Calmly
    rw [e]
    cases e1 : applyMoves ans.moves { s with script := rest } with
    | ok a t =>
      rw [bind_ok _ e1]
      have h := applyMoves_moved e1
      have h1 := h.eq
      show Calm w s t
      have hd : t.draws = s.draws := by rw [h1]
      have hf : t.fc = s.fc := by rw [h1]
      exact {
        eq := by rw [h1]
        draws := Nat.le_of_eq hd.symm
        fc := .inl hf
        wf := h.wf
        lines := fun h0 => by rw [hs] at h0; cases h0
        bytes := fun h0 => by rw [hs] at h0; cases h0 }
    | error st t =>
      rw [bind_error _ e1]
      obtain ⟨f, rfl⟩ := applyMoves_error e1
      trivial

theorem calmly_recordCall (c : Call) (s : State) : Calmly w (recordCall c) s :=
  { Calm.refl w s with eq := rfl, lines := fun h => ⟨h, rfl, rfl, rfl, rfl⟩ }

theorem calmly_callHook (c : Call) (s : State) : Calmly w (callHook c) s :=
  calmly_bind (calmly_recordCall c s) fun _ t _ => calmly_hostAnswer t

theorem calmly_callHandler (h : Handler) (c : Call) (d : Long) (s : State) :
    Calmly w (callHandler h c d) s := by
  refine calmly_bind (calmly_recordCall c s) fun _ t _ => ?_
  cases h with
  | default => exact calmly_pure d t
  | host => exact calmly_hostAnswer t

/-! ### Accesses -/

theorem legalFc_dataFc (s : State) : legalFc s.dataFc = true := by
  unfold State.dataFc
  split <;> rfl

theorem legalFc_programFc (s : State) : legalFc s.programFc = true := by
  unfold State.programFc
  split <;> rfl

theorem calmly_driveFc {fc : BitVec 3} (hfc : legalFc fc = true) (s : State) :
    Calmly w (driveFc fc) s := by
  unfold driveFc
  refine calmly_bind (calmly_look id s) fun r t e => ?_
  cases e
  show Calmly w (if (s.cfg.fcEmulation && s.fc != fc) = true then _ else _) s
  split
  · next hc =>
    rw [Bool.and_eq_true] at hc
    refine calmly_bind (calmly_update ?_) fun _ t _ => ?_
    · exact { Calm.refl w s with
        eq := rfl, fc := .inr ⟨hc.1, hfc⟩, lines := fun h => ⟨h, rfl, rfl, rfl, rfl⟩ }
    · exact calmly_bind (calmly_callHandler _ _ _ t) fun _ t _ => calmly_pure _ t
  · exact calmly_pure _ s

theorem calmly_busRead8 (a : Addr) (s : State) : Calmly w (busRead8 a) s := by
  unfold busRead8
  refine calmly_bind (calmly_look id s) fun r t e => ?_
  cases e
  split
  · exact calmly_pure _ s
  · exact calmly_bind (calmly_callHook _ s) fun _ t _ => calmly_pure _ t
  · exact calmly_failWith _ s

theorem calmly_busRead16 (a : Addr) (s : State) : Calmly w (busRead16 a) s := by
  unfold busRead16
  refine calmly_bind (calmly_look id s) fun r t e => ?_
  cases e
  split
  · exact calmly_pure _ s
  · exact calmly_bind (calmly_callHook _ s) fun _ t _ => calmly_pure _ t
  · exact calmly_failWith _ s

theorem calm_pokeByte (a : Addr) (v : Byte) (s : State) : Calm [a] s (pokeByte a v s) where
  eq := by unfold pokeByte; split <;> rfl
  draws := by unfold pokeByte; split <;> exact Nat.le_refl _
  fc := by unfold pokeByte; split <;> exact .inl rfl
  wf := fun h => wf_pokeByte h a v
  lines := fun h => by unfold pokeByte; split <;> exact ⟨h, rfl, rfl, rfl, rfl⟩
  bytes := fun _ b hb => read_pokeByte_other s v (by simpa using hb)

theorem calmly_busWrite8 (a : Addr) (v : Byte) (s : State) : Calmly [a] (busWrite8 a v) s := by
  unfold busWrite8
  refine calmly_bind (calmly_look id s) fun r t e => ?_
  cases e
  split
  · exact calmly_update (calm_pokeByte a v s)
  · exact calmly_bind (calmly_callHook _ s) fun _ t _ => calmly_pure _ t
  · exact calmly_failWith _ s

theorem calmly_busWrite16 (a : Addr) (v : Word) (s : State) :
    Calmly [a, a + 1] (busWrite16 a v) s := by
  unfold busWrite16
  refine calmly_bind (calmly_look id s) fun r t e => ?_
  cases e
  split
  · exact calmly_update ((calm_pokeByte a _ s).trans (calm_pokeByte (a + 1) _ _))
  · exact calmly_bind (calmly_callHook _ s) fun _ t _ => calmly_pure _ t
  · exact calmly_failWith _ s

theorem calmly_busRead (sz : Size) (a : Long) (s : State) : Calmly w (busRead sz a) s := by
  cases sz with
  | b => exact calmly_bind (calmly_busRead8 _ s) fun _ t _ => calmly_pure _ t
  | w => exact calmly_bind (calmly_busRead16 _ s) fun _ t _ => calmly_pure _ t
  | l =>
    exact calmly_bind (calmly_busRead16 _ s) fun _ t _ =>
      calmly_bind (calmly_busRead16 _ t) fun _ u _ => calmly_pure _ u

theorem calmly_busWrite (sz : Size) (a v : Long) (s : State) :
    Calmly (bytesFrom a (bytesOf sz)) (busWrite sz a v) s := by
  have h1 : busAddr a + BitVec.ofNat 24 0 = busAddr a := BitVec.add_zero _
  have h2 : busAddr (a + 2) = busAddr a + BitVec.ofNat 24 2 := by
    simp [busAddr, BitVec.setWidth_add]
  have h3 : busAddr (a + 2) + 1 = busAddr a + BitVec.ofNat 24 3 := by
    rw [h2, BitVec.add_assoc]; rfl
  cases sz with
  | b =>
    refine calmly_mono (calmly_busWrite8 _ _ s) fun b hb => ?_
    simp only [bytesFrom, bytesOf, List.mem_map, List.mem_range]
    rw [List.mem_singleton] at hb
    exact ⟨0, by decide, by rw [h1, hb]⟩
  | w =>
    refine calmly_mono (calmly_busWrite16 _ _ s) fun b hb => ?_
    simp only [bytesFrom, bytesOf, List.mem_map, List.mem_range]
    simp only [List.mem_cons, List.not_mem_nil, or_false] at hb
    rcases hb with rfl | rfl
    · exact ⟨0, by decide, h1⟩
    · exact ⟨1, by decide, rfl⟩
  | l =>
    refine calmly_bind (calmly_mono (calmly_busWrite16 _ _ s) fun b hb => ?_) fun _ t _ =>
      calmly_mono (calmly_busWrite16 _ _ t) fun b hb => ?_
    · simp only [bytesFrom, bytesOf, List.mem_map, List.mem_range]
      simp only [List.mem_cons, List.not_mem_nil, or_false] at hb
      rcases hb with rfl | rfl
      · exact ⟨0, by decide, h1⟩
      · exact ⟨1, by decide, rfl⟩
    · simp only [bytesFrom, bytesOf, List.mem_map, List.mem_range]
      simp only [List.mem_cons, List.not_mem_nil, or_false] at hb
      rcases hb with rfl | rfl
      · exact ⟨2, by decide, h2.symm⟩
      · exact ⟨3, by decide, h3.symm⟩

theorem calmly_raiseAddressError (ph : Phase) (a : Long) (wr : Bool) (fc : BitVec 3) (s : State) :
    Calmly w (raiseAddressError ph a wr fc : Exec α) s := Calm.refl w s

/-- A load changes nothing but what an access changes (R110). -/
theorem calmly_memRead (ph : Phase) (sz : Size) (a : Long) (s : State) :
    Calmly w (memRead ph sz a) s := by
  unfold memRead
  refine calmly_bind (calmly_look _ s) fun fc t e => ?_
  cases e
  split
  · exact calmly_raiseAddressError _ _ _ _ s
  · exact calmly_bind (calmly_driveFc (legalFc_dataFc s) s) fun _ t _ => calmly_busRead sz a t

theorem calmly_hazardCheck (base a : Long) (n : Nat) (s : State) :
    Calmly w (hazardCheck base a n) s := by
  unfold hazardCheck
  split
  · exact calmly_failWith _ s
  · exact calmly_pure _ s

/-- A store changes, besides, the bytes it stores to (R111). -/
theorem calmly_memWrite (ph : Phase) (sz : Size) (a v : Long) (s : State) :
    Calmly (bytesFrom a (bytesOf sz)) (memWrite ph sz a v) s := by
  unfold memWrite
  refine calmly_bind (calmly_look _ s) fun fc t e => ?_
  cases e
  split
  · exact calmly_raiseAddressError _ _ _ _ s
  · refine calmly_bind (calmly_driveFc (legalFc_dataFc s) s) fun _ t _ => ?_
    refine calmly_bind (calmly_busWrite sz a v t) fun _ u _ => ?_
    cases ph with
    | instruction =>
      exact calmly_bind (calmly_look _ u) fun _ x _ => calmly_hazardCheck _ _ _ x
    | exception => exact calmly_pure _ u

theorem calmly_fastWord (a : Long) (s : State) : Calmly w (fastWord a) s := by
  unfold fastWord
  refine calmly_bind (calmly_look id s) fun r t e => ?_
  cases e
  show Calmly w (if _ then _ else _) s
  split
  · exact calmly_pure _ s
  · exact calmly_failWith _ s

theorem calmly_fastByte (a : Long) (s : State) : Calmly w (fastByte a) s := by
  unfold fastByte
  refine calmly_bind (calmly_look id s) fun r t e => ?_
  cases e
  show Calmly w (if _ then _ else _) s
  split
  · exact calmly_pure _ s
  · exact calmly_failWith _ s

/-- A fetch moves pc, and changes nothing else but what an access changes (R114). -/
theorem calmly_fetchWord (s : State) : Calmly w fetchWord s := by
  unfold fetchWord
  refine calmly_bind (calmly_look _ s) fun pc t e => ?_
  cases e
  refine calmly_bind (calmly_look _ s) fun fc t e => ?_
  cases e
  show Calmly w (if s.pc.getLsbD 0 = true then _ else _) s
  split
  · exact calmly_raiseAddressError _ _ _ _ s
  · refine calmly_bind (calmly_driveFc (legalFc_programFc s) s) fun _ t _ => ?_
    refine calmly_bind (calmly_fastWord _ t) fun _ u _ => ?_
    refine calmly_bind (calmly_update ?_) fun _ x _ => calmly_pure _ x
    exact (Calm.setPc u _).mono fun _ hb => by simp at hb

theorem calmly_fetchLong (s : State) : Calmly w fetchLong s :=
  calmly_bind (calmly_fetchWord s) fun _ t _ =>
    calmly_bind (calmly_fetchWord t) fun _ u _ => calmly_pure _ u

theorem calmly_fetchDisp (s : State) : Calmly w fetchDisp s :=
  calmly_bind (calmly_fetchWord s) fun _ t _ => calmly_pure _ t

theorem calmly_immediate (sz : Size) (s : State) : Calmly w (immediate sz) s := by
  cases sz with
  | b => exact calmly_bind (calmly_fetchWord s) fun _ t _ => calmly_pure _ t
  | w => exact calmly_bind (calmly_fetchWord s) fun _ t _ => calmly_pure _ t
  | l => exact calmly_fetchLong s

theorem calmly_memReadPc (sz : Size) (a : Long) (s : State) : Calmly w (memReadPc sz a) s := by
  unfold memReadPc
  split
  · exact calmly_failWith _ s
  · refine calmly_bind (calmly_look _ s) fun fc t e => ?_
    cases e
    refine calmly_bind (calmly_driveFc (legalFc_programFc s) s) fun _ t _ => ?_
    cases sz with
    | b => exact calmly_bind (calmly_fastByte a t) fun _ u _ => calmly_pure _ u
    | w => exact calmly_bind (calmly_fastWord a t) fun _ u _ => calmly_pure _ u
    | l =>
      exact calmly_bind (calmly_fastWord a t) fun _ u _ =>
        calmly_bind (calmly_fastWord _ u) fun _ x _ => calmly_pure _ x

/-- Reading a place changes nothing but what an access changes (R163). -/
theorem calmly_readLoc (sz : Size) (loc : Loc) (s : State) : Calmly w (readLoc sz loc) s := by
  cases loc with
  | dreg n => exact calmly_look _ s
  | areg n => exact calmly_look _ s
  | mem a => exact calmly_memRead _ sz a s
  | pcMem a => exact calmly_memReadPc sz a s
  | imm v => exact calmly_pure _ s

theorem calmly_dummyRead (sz : Size) (loc : Loc) (s : State) : Calmly w (dummyRead sz loc) s := by
  unfold dummyRead
  refine calmly_bind (calmly_look _ s) fun cfg t e => ?_
  cases e
  split
  · exact calmly_bind (calmly_memRead _ sz _ s) fun _ t _ => calmly_pure _ t
  · exact calmly_pure _ s

/-- Resolving an operand whose mode steps no address register changes nothing but pc and what an
access changes (R160). -/
theorem calmly_resolveEa (sz : Size) {ea : EA} (h : eaSteps ea = none) (s : State) :
    Calmly w (resolveEa sz ea) s := by
  cases ea with
  | dreg n => exact calmly_pure _ s
  | areg n => exact calmly_pure _ s
  | ind n => exact calmly_bind (calmly_look _ s) fun _ t _ => calmly_pure _ t
  | postInc n => cases h
  | preDec n => cases h
  | disp n =>
    exact calmly_bind (calmly_fetchDisp s) fun _ t _ =>
      calmly_bind (calmly_look _ t) fun _ u _ => calmly_pure _ u
  | index n =>
    exact calmly_bind (calmly_fetchWord s) fun _ t _ =>
      calmly_bind (calmly_look _ t) fun _ u _ => calmly_pure _ u
  | absW => exact calmly_bind (calmly_fetchDisp s) fun _ t _ => calmly_pure _ t
  | absL => exact calmly_bind (calmly_fetchLong s) fun _ t _ => calmly_pure _ t
  | pcDisp =>
    exact calmly_bind (calmly_look _ s) fun _ t _ =>
      calmly_bind (calmly_fetchDisp t) fun _ u _ => calmly_pure _ u
  | pcIndex =>
    exact calmly_bind (calmly_look _ s) fun _ t _ =>
      calmly_bind (calmly_fetchWord t) fun _ u _ =>
        calmly_bind (calmly_look _ u) fun _ x _ => calmly_pure _ x
  | imm => exact calmly_bind (calmly_immediate sz s) fun _ t _ => calmly_pure _ t

/-- A stepping mode writes its address register, and makes no access. -/
theorem resolveEa_postInc (sz : Size) (n : Reg) (s : State) :
    resolveEa sz (.postInc n) s =
      .ok (.mem (s.readA n)) (s.writeA n (s.readA n + stepOf n sz)) := rfl

theorem resolveEa_preDec (sz : Size) (n : Reg) (s : State) :
    resolveEa sz (.preDec n) s =
      .ok (.mem (s.readA n - stepOf n sz)) (s.writeA n (s.readA n - stepOf n sz)) := rfl

end Sys2Proof.Machine
end

