-- ==== Sys2Proof/Laws/Operands.lean ====
section
/-!
SUPPORT. What resolving an operand does, once for every addressing mode (R160, R165), and what
reading and writing the resolved place does (R163).
-/

namespace Sys2Proof.Machine

/-- The location that an operand resolves to (R160). -/
def locOf (s : State) (sz : Size) : EA → Loc
  | .dreg n => .dreg n
  | .areg n => .areg n
  | .imm => .imm (immAt s sz)
  | .pcDisp => .pcMem (eaAddr s sz .pcDisp)
  | .pcIndex => .pcMem (eaAddr s sz .pcIndex)
  | ea => .mem (eaAddr s sz ea)

theorem skipWords_zero (s : State) : skipWords 0 s = s := by
  have h : s.pc + BitVec.ofNat 32 (2 * 0) = s.pc := BitVec.add_zero _
  rw [skipWords, h]
  rfl

theorem sameButBus_fetchDisp {s : State} (hq : quiet s = true) (h : fetchable s s.pc 1 = true) :
    ∃ t, fetchDisp s = .ok ((wordAt s s.pc).signExtend 32) t ∧ SameButBus t (skipWords 1 s) := by
  obtain ⟨t, e, b⟩ := sameButBus_fetchWord hq h
  exact ⟨t, by rw [fetchDisp, bind_ok _ e, pure_apply], b⟩

/-- Resolving an operand whose extension words can be fetched (R160): its location, and the state
with the address register stepped and pc past the words. -/
theorem sameButBus_resolveEa {s : State} {sz : Size} {ea : EA} (hq : quiet s = true)
    (h : resolvable s sz ea = true) :
    ∃ t, resolveEa sz ea s = .ok (locOf s sz ea) t ∧ SameButBus t (afterEa s sz ea) := by
  have z : ∀ u : State, SameButBus u (skipWords 0 u) := fun u => by
    rw [skipWords_zero]; exact .refl u
  cases ea with
  | dreg n => exact ⟨s, rfl, z s⟩
  | areg n => exact ⟨s, rfl, z s⟩
  | ind n => exact ⟨s, rfl, z s⟩
  | postInc n => exact ⟨_, rfl, z _⟩
  | preDec n => exact ⟨_, rfl, z _⟩
  | disp n =>
    obtain ⟨t, e, b⟩ := sameButBus_fetchDisp hq h
    refine ⟨t, ?_, b⟩
    rw [resolveEa, bind_ok _ e, look_bind, pure_apply, b.congr fun s => s.readA n]
    rfl
  | index n =>
    obtain ⟨t, e, b⟩ := sameButBus_fetchWord hq h
    refine ⟨t, ?_, b⟩
    rw [resolveEa, bind_ok _ e, look_bind, pure_apply,
      b.congr fun t => t.readA n + indexValue t (wordAt s s.pc)]
    rfl
  | absW =>
    obtain ⟨t, e, b⟩ := sameButBus_fetchDisp hq h
    exact ⟨t, by rw [resolveEa, bind_ok _ e, pure_apply]; rfl, b⟩
  | absL =>
    obtain ⟨t, e, b⟩ := sameButBus_fetchLong hq h
    exact ⟨t, by rw [resolveEa, bind_ok _ e, pure_apply]; rfl, b⟩
  | pcDisp =>
    obtain ⟨t, e, b⟩ := sameButBus_fetchDisp hq h
    exact ⟨t, by rw [resolveEa, look_bind, bind_ok _ e, pure_apply]; rfl, b⟩
  | pcIndex =>
    obtain ⟨t, e, b⟩ := sameButBus_fetchWord hq h
    refine ⟨t, ?_, b⟩
    rw [resolveEa, look_bind, bind_ok _ e, look_bind, pure_apply,
      b.congr fun t => indexValue t (wordAt s s.pc)]
    rfl
  | imm =>
    obtain ⟨t, e, b⟩ := sameButBus_immediate (sz := sz) hq h
    exact ⟨t, by rw [resolveEa, bind_ok _ e, pure_apply]; rfl, b⟩

/-- A PC-relative load (R116): from program space, at FC 2 or 6. -/
theorem sameButBus_memReadPc {s : State} {sz : Size} {a : Long} (hq : quiet s = true)
    (h : accessible s sz a = true) :
    ∃ t, memReadPc sz a s = .ok (valueAt s sz a) t ∧ SameButBus t s := by
  have hb : backed s a = true := by simpa [backed] using accessible_first h
  have b := sameButBus_driven s.programFc s
  have hb' : backed (driven s.programFc s) a = true := (b.congr fun t => backed t a).trans hb
  have hw := b.congr fun t => wordAt t a
  refine ⟨driven s.programFc s, ?_, b⟩
  unfold memReadPc
  rw [if_neg (by simp [accessible_aligned h]), look_bind, bind_ok _ (driveFc_quiet hq _)]
  cases sz with
  | b =>
    have hr : (driven s.programFc s).region (busAddr a) = .pointer := by
      simpa [backed] using hb'
    have hm : (driven s.programFc s).mem = s.mem := b.congr State.mem
    show (fastByte a >>= fun v => pure (v.setWidth 32)) (driven s.programFc s) = _
    rw [bind_apply, fastByte, look_bind]
    simp only [id, hr, if_true, pure_apply, hm, valueAt]
  | w =>
    show (fastWord a >>= fun v => pure (v.setWidth 32)) (driven s.programFc s) = _
    rw [bind_ok _ (fastWord_backed hb'), pure_apply, hw]
    rfl
  | l =>
    have hb2 : backed (driven s.programFc s) (a + 2) = true :=
      (b.congr fun t => backed t (a + 2)).trans (by simpa [backed] using accessible_second h)
    show (fastWord a >>= fun hi => fastWord (a + 2) >>= fun lo => pure (hi ++ lo))
      (driven s.programFc s) = _
    rw [bind_ok _ (fastWord_backed hb'), bind_ok _ (fastWord_backed hb2), pure_apply, hw,
      b.congr fun t => wordAt t (a + 2)]
    rfl

/-- Writing a resolved place in a later state (R163). -/
theorem sameButBus_writeLoc {s t : State} {sz : Size} {ea : EA} (hq : quiet t = true)
    (hc : ea.inClass .alt = true)
    (h : inMemory ea = true → storable t t.pc sz (eaAddr s sz ea) = true) (v : Long) :
    ∃ u, writeLoc sz (locOf s sz ea) v t = .ok () u ∧ SameButBus u (putOperand s sz ea v t) := by
  have key : inMemory ea = true → locOf s sz ea = .mem (eaAddr s sz ea) →
      putOperand s sz ea v t = putMem sz (eaAddr s sz ea) v t →
      ∃ u, writeLoc sz (locOf s sz ea) v t = .ok () u ∧
        SameButBus u (putOperand s sz ea v t) := fun hm hl hp => by
    have hs := h hm
    simp only [storable, Bool.and_eq_true] at hs
    rw [hl, hp]
    exact sameButBus_memWrite .instruction hq hs.1 (fun _ => hs.2) v
  cases ea with
  | dreg n => exact ⟨_, rfl, .refl _⟩
  | areg n => exact ⟨_, rfl, .refl _⟩
  | imm => simp [EA.inClass] at hc
  | pcDisp => simp [EA.inClass] at hc
  | pcIndex => simp [EA.inClass] at hc
  | ind n => exact key rfl rfl rfl
  | postInc n => exact key rfl rfl rfl
  | preDec n => exact key rfl rfl rfl
  | disp n => exact key rfl rfl rfl
  | index n => exact key rfl rfl rfl
  | absW => exact key rfl rfl rfl
  | absL => exact key rfl rfl rfl

end Sys2Proof.Machine
end

