-- ==== Sys2Proof/Laws/PerInstr.lean ====
section
/-!
SUPPORT. Statements for all instructions, made per instruction. OpcodeLine: bits 15:12 of the opcode
word, the line, are those of the instruction's group (R151).
-/

namespace Sys2Proof.Laws.OpcodeLine

/-- The line of an instruction's group (R151). -/
def lineOf : Instr → BitVec 4
  | .oriCcr => 0x0
  | .oriSr => 0x0
  | .andiCcr => 0x0
  | .andiSr => 0x0
  | .eoriCcr => 0x0
  | .eoriSr => 0x0
  | .ori _ _ => 0x0
  | .andi _ _ => 0x0
  | .subi _ _ => 0x0
  | .addi _ _ => 0x0
  | .eori _ _ => 0x0
  | .cmpi _ _ => 0x0
  | .btstS _ => 0x0
  | .bchgS _ => 0x0
  | .bclrS _ => 0x0
  | .bsetS _ => 0x0
  | .btstD _ _ => 0x0
  | .bchgD _ _ => 0x0
  | .bclrD _ _ => 0x0
  | .bsetD _ _ => 0x0
  | .movepWM2R _ _ => 0x0
  | .movepLM2R _ _ => 0x0
  | .movepWR2M _ _ => 0x0
  | .movepLR2M _ _ => 0x0
  | .moveB _ _ => 0x1
  | .moveW _ _ => 0x3
  | .moveL _ _ => 0x2
  | .moveaW _ _ => 0x3
  | .moveaL _ _ => 0x2
  | .moveFromSr _ => 0x4
  | .moveToCcr _ => 0x4
  | .moveToSr _ => 0x4
  | .negx _ _ => 0x4
  | .clr _ _ => 0x4
  | .neg _ _ => 0x4
  | .notEa _ _ => 0x4
  | .tst _ _ => 0x4
  | .nbcd _ => 0x4
  | .swap _ => 0x4
  | .pea _ => 0x4
  | .extW _ => 0x4
  | .extL _ => 0x4
  | .movemWR2M _ => 0x4
  | .movemLR2M _ => 0x4
  | .tas _ => 0x4
  | .illegal => 0x4
  | .movemWM2R _ => 0x4
  | .movemLM2R _ => 0x4
  | .chk _ _ => 0x4
  | .lea _ _ => 0x4
  | .trap _ => 0x4
  | .link _ => 0x4
  | .unlk _ => 0x4
  | .moveToUsp _ => 0x4
  | .moveFromUsp _ => 0x4
  | .reset => 0x4
  | .nop => 0x4
  | .stop => 0x4
  | .rte => 0x4
  | .rts => 0x4
  | .trapv => 0x4
  | .rtr => 0x4
  | .jsr _ => 0x4
  | .jmp _ => 0x4
  | .addqB _ _ => 0x5
  | .addqWL _ _ _ => 0x5
  | .subqB _ _ => 0x5
  | .subqWL _ _ _ => 0x5
  | .dbcc _ _ => 0x5
  | .scc _ _ => 0x5
  | .bra _ => 0x6
  | .bsr _ => 0x6
  | .bcc _ _ => 0x6
  | .moveq _ _ => 0x7
  | .subEaDB _ _ => 0x9
  | .subEaDWL _ _ _ => 0x9
  | .subDEa _ _ _ => 0x9
  | .subaW _ _ => 0x9
  | .subaL _ _ => 0x9
  | .subxR _ _ _ => 0x9
  | .subxM _ _ _ => 0x9
  | .addEaDB _ _ => 0xD
  | .addEaDWL _ _ _ => 0xD
  | .addDEa _ _ _ => 0xD
  | .addaW _ _ => 0xD
  | .addaL _ _ => 0xD
  | .addxR _ _ _ => 0xD
  | .addxM _ _ _ => 0xD
  | .orEaD _ _ _ => 0x8
  | .orDEa _ _ _ => 0x8
  | .divu _ _ => 0x8
  | .divs _ _ => 0x8
  | .sbcdR _ _ => 0x8
  | .sbcdM _ _ => 0x8
  | .cmpB _ _ => 0xB
  | .cmpWL _ _ _ => 0xB
  | .cmpaW _ _ => 0xB
  | .cmpaL _ _ => 0xB
  | .eor _ _ _ => 0xB
  | .cmpm _ _ _ => 0xB
  | .andEaD _ _ _ => 0xC
  | .andDEa _ _ _ => 0xC
  | .mulu _ _ => 0xC
  | .muls _ _ => 0xC
  | .abcdR _ _ => 0xC
  | .abcdM _ _ => 0xC
  | .exgDD _ _ => 0xC
  | .exgAA _ _ => 0xC
  | .exgDA _ _ => 0xC
  | .asrR _ _ _ => 0xE
  | .asrM _ => 0xE
  | .aslR _ _ _ => 0xE
  | .aslM _ => 0xE
  | .lsrR _ _ _ => 0xE
  | .lsrM _ => 0xE
  | .lslR _ _ _ => 0xE
  | .lslM _ => 0xE
  | .roxrR _ _ _ => 0xE
  | .roxrM _ => 0xE
  | .roxlR _ _ _ => 0xE
  | .roxlM _ => 0xE
  | .rorR _ _ _ => 0xE
  | .rorM _ => 0xE
  | .rolR _ _ _ => 0xE
  | .rolM _ => 0xE
  | .lineA _ => 0xA
  | .lineF _ => 0xF

/-- Bits 15:12 of the opcode word are the line of the instruction. -/
def Statement (i : Instr) : Prop := (encode i).extractLsb' 12 4 = lineOf i

/-! ### No operand field reaches the line -/

theorem or_line (a b : Word) :
    (a ||| b).extractLsb' 12 4 = a.extractLsb' 12 4 ||| b.extractLsb' 12 4 :=
  BitVec.extractLsb'_or

theorem line_or {a b : Word} {l : BitVec 4} (ha : a.extractLsb' 12 4 = l)
    (hb : b.extractLsb' 12 4 = 0) : (a ||| b).extractLsb' 12 4 = l := by
  rw [or_line, ha, hb]
  exact BitVec.or_zero

theorem at3_line_0 (v : BitVec 3) : (at3 v 0).extractLsb' 12 4 = 0 := by
  revert v; decide

theorem at3_line_3 (v : BitVec 3) : (at3 v 3).extractLsb' 12 4 = 0 := by
  revert v; decide

theorem at3_line_6 (v : BitVec 3) : (at3 v 6).extractLsb' 12 4 = 0 := by
  revert v; decide

theorem at3_line_9 (v : BitVec 3) : (at3 v 9).extractLsb' 12 4 = 0 := by
  revert v; decide

theorem src_line (ea : EA) : ea.srcField.extractLsb' 12 4 = 0 :=
  line_or (at3_line_3 _) (at3_line_0 _)

theorem dst_line (ea : EA) : ea.dstField.extractLsb' 12 4 = 0 :=
  line_or (at3_line_9 _) (at3_line_6 _)

theorem size_line (sz : Size) : sz.field.extractLsb' 12 4 = 0 := by
  cases sz <;> rfl

theorem count_line (n : Count) : n.field.extractLsb' 12 4 = 0 := by
  cases n with
  | imm c => exact at3_line_9 _
  | reg c => exact line_or (at3_line_9 _) rfl

theorem cond_line (c : Cond) : (c.code.setWidth 16 <<< 8).extractLsb' 12 4 = 0 := by
  cases c <;> rfl

theorem byte_line (v : Byte) : (v.setWidth 16).extractLsb' 12 4 = 0 := by
  revert v; decide +kernel

theorem twelve_line (v : BitVec 12) : (v.setWidth 16).extractLsb' 12 4 = 0 := by
  ext i hi
  simp

theorem trap_line (v : Fin 16) : (BitVec.ofNat 16 v.val).extractLsb' 12 4 = 0 := by
  revert v; decide

/-! ### One lemma per constructor -/

theorem oriCcr : Statement .oriCcr := rfl

theorem oriSr : Statement .oriSr := rfl

theorem andiCcr : Statement .andiCcr := rfl

theorem andiSr : Statement .andiSr := rfl

theorem eoriCcr : Statement .eoriCcr := rfl

theorem eoriSr : Statement .eoriSr := rfl

theorem ori (sz : Size) (ea : EA) : Statement (.ori sz ea) :=
  line_or (line_or rfl (size_line sz)) (src_line ea)

theorem andi (sz : Size) (ea : EA) : Statement (.andi sz ea) :=
  line_or (line_or rfl (size_line sz)) (src_line ea)

theorem subi (sz : Size) (ea : EA) : Statement (.subi sz ea) :=
  line_or (line_or rfl (size_line sz)) (src_line ea)

theorem addi (sz : Size) (ea : EA) : Statement (.addi sz ea) :=
  line_or (line_or rfl (size_line sz)) (src_line ea)

theorem eori (sz : Size) (ea : EA) : Statement (.eori sz ea) :=
  line_or (line_or rfl (size_line sz)) (src_line ea)

theorem cmpi (sz : Size) (ea : EA) : Statement (.cmpi sz ea) :=
  line_or (line_or rfl (size_line sz)) (src_line ea)

theorem btstS (ea : EA) : Statement (.btstS ea) :=
  line_or rfl (src_line ea)

theorem bchgS (ea : EA) : Statement (.bchgS ea) :=
  line_or rfl (src_line ea)

theorem bclrS (ea : EA) : Statement (.bclrS ea) :=
  line_or rfl (src_line ea)

theorem bsetS (ea : EA) : Statement (.bsetS ea) :=
  line_or rfl (src_line ea)

theorem btstD (x : Reg) (ea : EA) : Statement (.btstD x ea) :=
  line_or (line_or rfl (at3_line_9 _)) (src_line ea)

theorem bchgD (x : Reg) (ea : EA) : Statement (.bchgD x ea) :=
  line_or (line_or rfl (at3_line_9 _)) (src_line ea)

theorem bclrD (x : Reg) (ea : EA) : Statement (.bclrD x ea) :=
  line_or (line_or rfl (at3_line_9 _)) (src_line ea)

theorem bsetD (x : Reg) (ea : EA) : Statement (.bsetD x ea) :=
  line_or (line_or rfl (at3_line_9 _)) (src_line ea)

theorem movepWM2R (x : Reg) (y : Reg) : Statement (.movepWM2R x y) :=
  line_or (line_or rfl (at3_line_9 _)) (at3_line_0 _)

theorem movepLM2R (x : Reg) (y : Reg) : Statement (.movepLM2R x y) :=
  line_or (line_or rfl (at3_line_9 _)) (at3_line_0 _)

theorem movepWR2M (x : Reg) (y : Reg) : Statement (.movepWR2M x y) :=
  line_or (line_or rfl (at3_line_9 _)) (at3_line_0 _)

theorem movepLR2M (x : Reg) (y : Reg) : Statement (.movepLR2M x y) :=
  line_or (line_or rfl (at3_line_9 _)) (at3_line_0 _)

theorem moveB (src : EA) (dst : EA) : Statement (.moveB src dst) :=
  line_or (line_or rfl (dst_line dst)) (src_line src)

theorem moveW (src : EA) (dst : EA) : Statement (.moveW src dst) :=
  line_or (line_or rfl (dst_line dst)) (src_line src)

theorem moveL (src : EA) (dst : EA) : Statement (.moveL src dst) :=
  line_or (line_or rfl (dst_line dst)) (src_line src)

theorem moveaW (src : EA) (x : Reg) : Statement (.moveaW src x) :=
  line_or (line_or rfl (at3_line_9 _)) (src_line src)

theorem moveaL (src : EA) (x : Reg) : Statement (.moveaL src x) :=
  line_or (line_or rfl (at3_line_9 _)) (src_line src)

theorem moveFromSr (ea : EA) : Statement (.moveFromSr ea) :=
  line_or rfl (src_line ea)

theorem moveToCcr (ea : EA) : Statement (.moveToCcr ea) :=
  line_or rfl (src_line ea)

theorem moveToSr (ea : EA) : Statement (.moveToSr ea) :=
  line_or rfl (src_line ea)

theorem negx (sz : Size) (ea : EA) : Statement (.negx sz ea) :=
  line_or (line_or rfl (size_line sz)) (src_line ea)

theorem clr (sz : Size) (ea : EA) : Statement (.clr sz ea) :=
  line_or (line_or rfl (size_line sz)) (src_line ea)

theorem neg (sz : Size) (ea : EA) : Statement (.neg sz ea) :=
  line_or (line_or rfl (size_line sz)) (src_line ea)

theorem notEa (sz : Size) (ea : EA) : Statement (.notEa sz ea) :=
  line_or (line_or rfl (size_line sz)) (src_line ea)

theorem tst (sz : Size) (ea : EA) : Statement (.tst sz ea) :=
  line_or (line_or rfl (size_line sz)) (src_line ea)

theorem nbcd (ea : EA) : Statement (.nbcd ea) :=
  line_or rfl (src_line ea)

theorem swap (y : Reg) : Statement (.swap y) :=
  line_or rfl (at3_line_0 _)

theorem pea (ea : EA) : Statement (.pea ea) :=
  line_or rfl (src_line ea)

theorem extW (y : Reg) : Statement (.extW y) :=
  line_or rfl (at3_line_0 _)

theorem extL (y : Reg) : Statement (.extL y) :=
  line_or rfl (at3_line_0 _)

theorem movemWR2M (ea : EA) : Statement (.movemWR2M ea) :=
  line_or rfl (src_line ea)

theorem movemLR2M (ea : EA) : Statement (.movemLR2M ea) :=
  line_or rfl (src_line ea)

theorem tas (ea : EA) : Statement (.tas ea) :=
  line_or rfl (src_line ea)

theorem illegal : Statement .illegal := rfl

theorem movemWM2R (ea : EA) : Statement (.movemWM2R ea) :=
  line_or rfl (src_line ea)

theorem movemLM2R (ea : EA) : Statement (.movemLM2R ea) :=
  line_or rfl (src_line ea)

theorem chk (x : Reg) (ea : EA) : Statement (.chk x ea) :=
  line_or (line_or rfl (at3_line_9 _)) (src_line ea)

theorem lea (x : Reg) (ea : EA) : Statement (.lea x ea) :=
  line_or (line_or rfl (at3_line_9 _)) (src_line ea)

theorem trap (v : Fin 16) : Statement (.trap v) :=
  line_or rfl (trap_line v)

theorem link (y : Reg) : Statement (.link y) :=
  line_or rfl (at3_line_0 _)

theorem unlk (y : Reg) : Statement (.unlk y) :=
  line_or rfl (at3_line_0 _)

theorem moveToUsp (y : Reg) : Statement (.moveToUsp y) :=
  line_or rfl (at3_line_0 _)

theorem moveFromUsp (y : Reg) : Statement (.moveFromUsp y) :=
  line_or rfl (at3_line_0 _)

theorem reset : Statement .reset := rfl

theorem nop : Statement .nop := rfl

theorem stop : Statement .stop := rfl

theorem rte : Statement .rte := rfl

theorem rts : Statement .rts := rfl

theorem trapv : Statement .trapv := rfl

theorem rtr : Statement .rtr := rfl

theorem jsr (ea : EA) : Statement (.jsr ea) :=
  line_or rfl (src_line ea)

theorem jmp (ea : EA) : Statement (.jmp ea) :=
  line_or rfl (src_line ea)

theorem addqB (q : Reg) (ea : EA) : Statement (.addqB q ea) :=
  line_or (line_or rfl (at3_line_9 _)) (src_line ea)

theorem addqWL (q : Reg) (sz : Size) (ea : EA) : Statement (.addqWL q sz ea) :=
  line_or (line_or (line_or rfl (at3_line_9 _)) (size_line sz)) (src_line ea)

theorem subqB (q : Reg) (ea : EA) : Statement (.subqB q ea) :=
  line_or (line_or rfl (at3_line_9 _)) (src_line ea)

theorem subqWL (q : Reg) (sz : Size) (ea : EA) : Statement (.subqWL q sz ea) :=
  line_or (line_or (line_or rfl (at3_line_9 _)) (size_line sz)) (src_line ea)

theorem dbcc (cond : Cond) (y : Reg) : Statement (.dbcc cond y) :=
  line_or (line_or rfl (cond_line cond)) (at3_line_0 _)

theorem scc (cond : Cond) (ea : EA) : Statement (.scc cond ea) :=
  line_or (line_or rfl (cond_line cond)) (src_line ea)

theorem bra (d8 : Byte) : Statement (.bra d8) :=
  line_or rfl (byte_line d8)

theorem bsr (d8 : Byte) : Statement (.bsr d8) :=
  line_or rfl (byte_line d8)

theorem bcc (cond : Cond) (d8 : Byte) : Statement (.bcc cond d8) :=
  line_or (line_or rfl (cond_line cond)) (byte_line d8)

theorem moveq (x : Reg) (d8 : Byte) : Statement (.moveq x d8) :=
  line_or (line_or rfl (at3_line_9 _)) (byte_line d8)

theorem subEaDB (x : Reg) (ea : EA) : Statement (.subEaDB x ea) :=
  line_or (line_or rfl (at3_line_9 _)) (src_line ea)

theorem subEaDWL (x : Reg) (sz : Size) (ea : EA) : Statement (.subEaDWL x sz ea) :=
  line_or (line_or (line_or rfl (at3_line_9 _)) (size_line sz)) (src_line ea)

theorem subDEa (x : Reg) (sz : Size) (ea : EA) : Statement (.subDEa x sz ea) :=
  line_or (line_or (line_or rfl (at3_line_9 _)) (size_line sz)) (src_line ea)

theorem subaW (x : Reg) (ea : EA) : Statement (.subaW x ea) :=
  line_or (line_or rfl (at3_line_9 _)) (src_line ea)

theorem subaL (x : Reg) (ea : EA) : Statement (.subaL x ea) :=
  line_or (line_or rfl (at3_line_9 _)) (src_line ea)

theorem subxR (x : Reg) (sz : Size) (y : Reg) : Statement (.subxR x sz y) :=
  line_or (line_or (line_or rfl (at3_line_9 _)) (size_line sz)) (at3_line_0 _)

theorem subxM (x : Reg) (sz : Size) (y : Reg) : Statement (.subxM x sz y) :=
  line_or (line_or (line_or rfl (at3_line_9 _)) (size_line sz)) (at3_line_0 _)

theorem addEaDB (x : Reg) (ea : EA) : Statement (.addEaDB x ea) :=
  line_or (line_or rfl (at3_line_9 _)) (src_line ea)

theorem addEaDWL (x : Reg) (sz : Size) (ea : EA) : Statement (.addEaDWL x sz ea) :=
  line_or (line_or (line_or rfl (at3_line_9 _)) (size_line sz)) (src_line ea)

theorem addDEa (x : Reg) (sz : Size) (ea : EA) : Statement (.addDEa x sz ea) :=
  line_or (line_or (line_or rfl (at3_line_9 _)) (size_line sz)) (src_line ea)

theorem addaW (x : Reg) (ea : EA) : Statement (.addaW x ea) :=
  line_or (line_or rfl (at3_line_9 _)) (src_line ea)

theorem addaL (x : Reg) (ea : EA) : Statement (.addaL x ea) :=
  line_or (line_or rfl (at3_line_9 _)) (src_line ea)

theorem addxR (x : Reg) (sz : Size) (y : Reg) : Statement (.addxR x sz y) :=
  line_or (line_or (line_or rfl (at3_line_9 _)) (size_line sz)) (at3_line_0 _)

theorem addxM (x : Reg) (sz : Size) (y : Reg) : Statement (.addxM x sz y) :=
  line_or (line_or (line_or rfl (at3_line_9 _)) (size_line sz)) (at3_line_0 _)

theorem orEaD (x : Reg) (sz : Size) (ea : EA) : Statement (.orEaD x sz ea) :=
  line_or (line_or (line_or rfl (at3_line_9 _)) (size_line sz)) (src_line ea)

theorem orDEa (x : Reg) (sz : Size) (ea : EA) : Statement (.orDEa x sz ea) :=
  line_or (line_or (line_or rfl (at3_line_9 _)) (size_line sz)) (src_line ea)

theorem divu (x : Reg) (ea : EA) : Statement (.divu x ea) :=
  line_or (line_or rfl (at3_line_9 _)) (src_line ea)

theorem divs (x : Reg) (ea : EA) : Statement (.divs x ea) :=
  line_or (line_or rfl (at3_line_9 _)) (src_line ea)

theorem sbcdR (x : Reg) (y : Reg) : Statement (.sbcdR x y) :=
  line_or (line_or rfl (at3_line_9 _)) (at3_line_0 _)

theorem sbcdM (x : Reg) (y : Reg) : Statement (.sbcdM x y) :=
  line_or (line_or rfl (at3_line_9 _)) (at3_line_0 _)

theorem cmpB (x : Reg) (ea : EA) : Statement (.cmpB x ea) :=
  line_or (line_or rfl (at3_line_9 _)) (src_line ea)

theorem cmpWL (x : Reg) (sz : Size) (ea : EA) : Statement (.cmpWL x sz ea) :=
  line_or (line_or (line_or rfl (at3_line_9 _)) (size_line sz)) (src_line ea)

theorem cmpaW (x : Reg) (ea : EA) : Statement (.cmpaW x ea) :=
  line_or (line_or rfl (at3_line_9 _)) (src_line ea)

theorem cmpaL (x : Reg) (ea : EA) : Statement (.cmpaL x ea) :=
  line_or (line_or rfl (at3_line_9 _)) (src_line ea)

theorem eor (x : Reg) (sz : Size) (ea : EA) : Statement (.eor x sz ea) :=
  line_or (line_or (line_or rfl (at3_line_9 _)) (size_line sz)) (src_line ea)

theorem cmpm (x : Reg) (sz : Size) (y : Reg) : Statement (.cmpm x sz y) :=
  line_or (line_or (line_or rfl (at3_line_9 _)) (size_line sz)) (at3_line_0 _)

theorem andEaD (x : Reg) (sz : Size) (ea : EA) : Statement (.andEaD x sz ea) :=
  line_or (line_or (line_or rfl (at3_line_9 _)) (size_line sz)) (src_line ea)

theorem andDEa (x : Reg) (sz : Size) (ea : EA) : Statement (.andDEa x sz ea) :=
  line_or (line_or (line_or rfl (at3_line_9 _)) (size_line sz)) (src_line ea)

theorem mulu (x : Reg) (ea : EA) : Statement (.mulu x ea) :=
  line_or (line_or rfl (at3_line_9 _)) (src_line ea)

theorem muls (x : Reg) (ea : EA) : Statement (.muls x ea) :=
  line_or (line_or rfl (at3_line_9 _)) (src_line ea)

theorem abcdR (x : Reg) (y : Reg) : Statement (.abcdR x y) :=
  line_or (line_or rfl (at3_line_9 _)) (at3_line_0 _)

theorem abcdM (x : Reg) (y : Reg) : Statement (.abcdM x y) :=
  line_or (line_or rfl (at3_line_9 _)) (at3_line_0 _)

theorem exgDD (x : Reg) (y : Reg) : Statement (.exgDD x y) :=
  line_or (line_or rfl (at3_line_9 _)) (at3_line_0 _)

theorem exgAA (x : Reg) (y : Reg) : Statement (.exgAA x y) :=
  line_or (line_or rfl (at3_line_9 _)) (at3_line_0 _)

theorem exgDA (x : Reg) (y : Reg) : Statement (.exgDA x y) :=
  line_or (line_or rfl (at3_line_9 _)) (at3_line_0 _)

theorem asrR (n : Count) (sz : Size) (y : Reg) : Statement (.asrR n sz y) :=
  line_or (line_or (line_or rfl (count_line n)) (size_line sz)) (at3_line_0 _)

theorem asrM (ea : EA) : Statement (.asrM ea) :=
  line_or rfl (src_line ea)

theorem aslR (n : Count) (sz : Size) (y : Reg) : Statement (.aslR n sz y) :=
  line_or (line_or (line_or rfl (count_line n)) (size_line sz)) (at3_line_0 _)

theorem aslM (ea : EA) : Statement (.aslM ea) :=
  line_or rfl (src_line ea)

theorem lsrR (n : Count) (sz : Size) (y : Reg) : Statement (.lsrR n sz y) :=
  line_or (line_or (line_or rfl (count_line n)) (size_line sz)) (at3_line_0 _)

theorem lsrM (ea : EA) : Statement (.lsrM ea) :=
  line_or rfl (src_line ea)

theorem lslR (n : Count) (sz : Size) (y : Reg) : Statement (.lslR n sz y) :=
  line_or (line_or (line_or rfl (count_line n)) (size_line sz)) (at3_line_0 _)

theorem lslM (ea : EA) : Statement (.lslM ea) :=
  line_or rfl (src_line ea)

theorem roxrR (n : Count) (sz : Size) (y : Reg) : Statement (.roxrR n sz y) :=
  line_or (line_or (line_or rfl (count_line n)) (size_line sz)) (at3_line_0 _)

theorem roxrM (ea : EA) : Statement (.roxrM ea) :=
  line_or rfl (src_line ea)

theorem roxlR (n : Count) (sz : Size) (y : Reg) : Statement (.roxlR n sz y) :=
  line_or (line_or (line_or rfl (count_line n)) (size_line sz)) (at3_line_0 _)

theorem roxlM (ea : EA) : Statement (.roxlM ea) :=
  line_or rfl (src_line ea)

theorem rorR (n : Count) (sz : Size) (y : Reg) : Statement (.rorR n sz y) :=
  line_or (line_or (line_or rfl (count_line n)) (size_line sz)) (at3_line_0 _)

theorem rorM (ea : EA) : Statement (.rorM ea) :=
  line_or rfl (src_line ea)

theorem rolR (n : Count) (sz : Size) (y : Reg) : Statement (.rolR n sz y) :=
  line_or (line_or (line_or rfl (count_line n)) (size_line sz)) (at3_line_0 _)

theorem rolM (ea : EA) : Statement (.rolM ea) :=
  line_or rfl (src_line ea)

theorem lineA (w : BitVec 12) : Statement (.lineA w) :=
  line_or rfl (twelve_line w)

theorem lineF (w : BitVec 12) : Statement (.lineF w) :=
  line_or rfl (twelve_line w)

end Sys2Proof.Laws.OpcodeLine
end

