-- ==== Sys2Proof/Laws/State.lean ====
section
/-!
SUPPORT. One lemma per field per named update of the state, so that no later proof unfolds a record
update.
-/

namespace Sys2Proof.Machine

/-! ### setPc -/

@[simp] theorem State.setPc_d (s : State) (v : Long) : (s.setPc v).d = s.d := rfl
@[simp] theorem State.setPc_a (s : State) (v : Long) : (s.setPc v).a = s.a := rfl
@[simp] theorem State.setPc_usp (s : State) (v : Long) : (s.setPc v).usp = s.usp := rfl
@[simp] theorem State.setPc_ssp (s : State) (v : Long) : (s.setPc v).ssp = s.ssp := rfl
@[simp] theorem State.setPc_pc (s : State) (v : Long) : (s.setPc v).pc = v := rfl
@[simp] theorem State.setPc_sr (s : State) (v : Long) : (s.setPc v).sr = s.sr := rfl
@[simp] theorem State.setPc_ir (s : State) (v : Long) : (s.setPc v).ir = s.ir := rfl
@[simp] theorem State.setPc_prefAddr (s : State) (v : Long) :
    (s.setPc v).prefAddr = s.prefAddr := rfl
@[simp] theorem State.setPc_prefData (s : State) (v : Long) :
    (s.setPc v).prefData = s.prefData := rfl
@[simp] theorem State.setPc_fc (s : State) (v : Long) : (s.setPc v).fc = s.fc := rfl
@[simp] theorem State.setPc_instPc (s : State) (v : Long) : (s.setPc v).instPc = s.instPc := rfl
@[simp] theorem State.setPc_intLevel (s : State) (v : Long) :
    (s.setPc v).intLevel = s.intLevel := rfl
@[simp] theorem State.setPc_nmiPending (s : State) (v : Long) :
    (s.setPc v).nmiPending = s.nmiPending := rfl
@[simp] theorem State.setPc_delayedIrq (s : State) (v : Long) :
    (s.setPc v).delayedIrq = s.delayedIrq := rfl
@[simp] theorem State.setPc_runMode (s : State) (v : Long) : (s.setPc v).runMode = s.runMode := rfl
@[simp] theorem State.setPc_stopped (s : State) (v : Long) : (s.setPc v).stopped = s.stopped := rfl
@[simp] theorem State.setPc_haltPin (s : State) (v : Long) : (s.setPc v).haltPin = s.haltPin := rfl
@[simp] theorem State.setPc_doubleFault (s : State) (v : Long) :
    (s.setPc v).doubleFault = s.doubleFault := rfl
@[simp] theorem State.setPc_tracePending (s : State) (v : Long) :
    (s.setPc v).tracePending = s.tracePending := rfl
@[simp] theorem State.setPc_aerrAddress (s : State) (v : Long) :
    (s.setPc v).aerrAddress = s.aerrAddress := rfl
@[simp] theorem State.setPc_aerrWrite (s : State) (v : Long) :
    (s.setPc v).aerrWrite = s.aerrWrite := rfl
@[simp] theorem State.setPc_aerrInstr (s : State) (v : Long) :
    (s.setPc v).aerrInstr = s.aerrInstr := rfl
@[simp] theorem State.setPc_aerrFc (s : State) (v : Long) : (s.setPc v).aerrFc = s.aerrFc := rfl
@[simp] theorem State.setPc_saved (s : State) (v : Long) : (s.setPc v).saved = s.saved := rfl
@[simp] theorem State.setPc_cyclesTotal (s : State) (v : Long) :
    (s.setPc v).cyclesTotal = s.cyclesTotal := rfl
@[simp] theorem State.setPc_cyclesRun (s : State) (v : Long) :
    (s.setPc v).cyclesRun = s.cyclesRun := rfl
@[simp] theorem State.setPc_budget (s : State) (v : Long) : (s.setPc v).budget = s.budget := rfl
@[simp] theorem State.setPc_idlePc (s : State) (v : Long) : (s.setPc v).idlePc = s.idlePc := rfl
@[simp] theorem State.setPc_idleCycle (s : State) (v : Long) :
    (s.setPc v).idleCycle = s.idleCycle := rfl
@[simp] theorem State.setPc_idleDetected (s : State) (v : Long) :
    (s.setPc v).idleDetected = s.idleDetected := rfl
@[simp] theorem State.setPc_handlers (s : State) (v : Long) :
    (s.setPc v).handlers = s.handlers := rfl
@[simp] theorem State.setPc_map (s : State) (v : Long) : (s.setPc v).map = s.map := rfl
@[simp] theorem State.setPc_mem (s : State) (v : Long) : (s.setPc v).mem = s.mem := rfl
@[simp] theorem State.setPc_cfg (s : State) (v : Long) : (s.setPc v).cfg = s.cfg := rfl
@[simp] theorem State.setPc_draws (s : State) (v : Long) : (s.setPc v).draws = s.draws := rfl
@[simp] theorem State.setPc_script (s : State) (v : Long) : (s.setPc v).script = s.script := rfl
@[simp] theorem State.setPc_calls (s : State) (v : Long) : (s.setPc v).calls = s.calls := rfl
@[simp] theorem State.setPc_lastEnd (s : State) (v : Long) : (s.setPc v).lastEnd = s.lastEnd := rfl

/-! ### writeD -/

@[simp] theorem State.writeD_d (s : State) (n : Reg) (v : Long) :
    (s.writeD n v).d = s.d.set n v := rfl
@[simp] theorem State.writeD_a (s : State) (n : Reg) (v : Long) : (s.writeD n v).a = s.a := rfl
@[simp] theorem State.writeD_usp (s : State) (n : Reg) (v : Long) :
    (s.writeD n v).usp = s.usp := rfl
@[simp] theorem State.writeD_ssp (s : State) (n : Reg) (v : Long) :
    (s.writeD n v).ssp = s.ssp := rfl
@[simp] theorem State.writeD_pc (s : State) (n : Reg) (v : Long) : (s.writeD n v).pc = s.pc := rfl
@[simp] theorem State.writeD_sr (s : State) (n : Reg) (v : Long) : (s.writeD n v).sr = s.sr := rfl
@[simp] theorem State.writeD_ir (s : State) (n : Reg) (v : Long) : (s.writeD n v).ir = s.ir := rfl
@[simp] theorem State.writeD_prefAddr (s : State) (n : Reg) (v : Long) :
    (s.writeD n v).prefAddr = s.prefAddr := rfl
@[simp] theorem State.writeD_prefData (s : State) (n : Reg) (v : Long) :
    (s.writeD n v).prefData = s.prefData := rfl
@[simp] theorem State.writeD_fc (s : State) (n : Reg) (v : Long) : (s.writeD n v).fc = s.fc := rfl
@[simp] theorem State.writeD_instPc (s : State) (n : Reg) (v : Long) :
    (s.writeD n v).instPc = s.instPc := rfl
@[simp] theorem State.writeD_intLevel (s : State) (n : Reg) (v : Long) :
    (s.writeD n v).intLevel = s.intLevel := rfl
@[simp] theorem State.writeD_nmiPending (s : State) (n : Reg) (v : Long) :
    (s.writeD n v).nmiPending = s.nmiPending := rfl
@[simp] theorem State.writeD_delayedIrq (s : State) (n : Reg) (v : Long) :
    (s.writeD n v).delayedIrq = s.delayedIrq := rfl
@[simp] theorem State.writeD_runMode (s : State) (n : Reg) (v : Long) :
    (s.writeD n v).runMode = s.runMode := rfl
@[simp] theorem State.writeD_stopped (s : State) (n : Reg) (v : Long) :
    (s.writeD n v).stopped = s.stopped := rfl
@[simp] theorem State.writeD_haltPin (s : State) (n : Reg) (v : Long) :
    (s.writeD n v).haltPin = s.haltPin := rfl
@[simp] theorem State.writeD_doubleFault (s : State) (n : Reg) (v : Long) :
    (s.writeD n v).doubleFault = s.doubleFault := rfl
@[simp] theorem State.writeD_tracePending (s : State) (n : Reg) (v : Long) :
    (s.writeD n v).tracePending = s.tracePending := rfl
@[simp] theorem State.writeD_aerrAddress (s : State) (n : Reg) (v : Long) :
    (s.writeD n v).aerrAddress = s.aerrAddress := rfl
@[simp] theorem State.writeD_aerrWrite (s : State) (n : Reg) (v : Long) :
    (s.writeD n v).aerrWrite = s.aerrWrite := rfl
@[simp] theorem State.writeD_aerrInstr (s : State) (n : Reg) (v : Long) :
    (s.writeD n v).aerrInstr = s.aerrInstr := rfl
@[simp] theorem State.writeD_aerrFc (s : State) (n : Reg) (v : Long) :
    (s.writeD n v).aerrFc = s.aerrFc := rfl
@[simp] theorem State.writeD_saved (s : State) (n : Reg) (v : Long) :
    (s.writeD n v).saved = s.saved := rfl
@[simp] theorem State.writeD_cyclesTotal (s : State) (n : Reg) (v : Long) :
    (s.writeD n v).cyclesTotal = s.cyclesTotal := rfl
@[simp] theorem State.writeD_cyclesRun (s : State) (n : Reg) (v : Long) :
    (s.writeD n v).cyclesRun = s.cyclesRun := rfl
@[simp] theorem State.writeD_budget (s : State) (n : Reg) (v : Long) :
    (s.writeD n v).budget = s.budget := rfl
@[simp] theorem State.writeD_idlePc (s : State) (n : Reg) (v : Long) :
    (s.writeD n v).idlePc = s.idlePc := rfl
@[simp] theorem State.writeD_idleCycle (s : State) (n : Reg) (v : Long) :
    (s.writeD n v).idleCycle = s.idleCycle := rfl
@[simp] theorem State.writeD_idleDetected (s : State) (n : Reg) (v : Long) :
    (s.writeD n v).idleDetected = s.idleDetected := rfl
@[simp] theorem State.writeD_handlers (s : State) (n : Reg) (v : Long) :
    (s.writeD n v).handlers = s.handlers := rfl
@[simp] theorem State.writeD_map (s : State) (n : Reg) (v : Long) :
    (s.writeD n v).map = s.map := rfl
@[simp] theorem State.writeD_mem (s : State) (n : Reg) (v : Long) :
    (s.writeD n v).mem = s.mem := rfl
@[simp] theorem State.writeD_cfg (s : State) (n : Reg) (v : Long) :
    (s.writeD n v).cfg = s.cfg := rfl
@[simp] theorem State.writeD_draws (s : State) (n : Reg) (v : Long) :
    (s.writeD n v).draws = s.draws := rfl
@[simp] theorem State.writeD_script (s : State) (n : Reg) (v : Long) :
    (s.writeD n v).script = s.script := rfl
@[simp] theorem State.writeD_calls (s : State) (n : Reg) (v : Long) :
    (s.writeD n v).calls = s.calls := rfl
@[simp] theorem State.writeD_lastEnd (s : State) (n : Reg) (v : Long) :
    (s.writeD n v).lastEnd = s.lastEnd := rfl

/-! ### mergeD -/

@[simp] theorem State.mergeD_d (s : State) (sz : Size) (n : Reg) (v : Long) :
    (s.mergeD sz n v).d = s.d.set n (mergeLow sz (s.readD n) v) := rfl
@[simp] theorem State.mergeD_a (s : State) (sz : Size) (n : Reg) (v : Long) :
    (s.mergeD sz n v).a = s.a := rfl
@[simp] theorem State.mergeD_usp (s : State) (sz : Size) (n : Reg) (v : Long) :
    (s.mergeD sz n v).usp = s.usp := rfl
@[simp] theorem State.mergeD_ssp (s : State) (sz : Size) (n : Reg) (v : Long) :
    (s.mergeD sz n v).ssp = s.ssp := rfl
@[simp] theorem State.mergeD_pc (s : State) (sz : Size) (n : Reg) (v : Long) :
    (s.mergeD sz n v).pc = s.pc := rfl
@[simp] theorem State.mergeD_sr (s : State) (sz : Size) (n : Reg) (v : Long) :
    (s.mergeD sz n v).sr = s.sr := rfl
@[simp] theorem State.mergeD_ir (s : State) (sz : Size) (n : Reg) (v : Long) :
    (s.mergeD sz n v).ir = s.ir := rfl
@[simp] theorem State.mergeD_prefAddr (s : State) (sz : Size) (n : Reg) (v : Long) :
    (s.mergeD sz n v).prefAddr = s.prefAddr := rfl
@[simp] theorem State.mergeD_prefData (s : State) (sz : Size) (n : Reg) (v : Long) :
    (s.mergeD sz n v).prefData = s.prefData := rfl
@[simp] theorem State.mergeD_fc (s : State) (sz : Size) (n : Reg) (v : Long) :
    (s.mergeD sz n v).fc = s.fc := rfl
@[simp] theorem State.mergeD_instPc (s : State) (sz : Size) (n : Reg) (v : Long) :
    (s.mergeD sz n v).instPc = s.instPc := rfl
@[simp] theorem State.mergeD_intLevel (s : State) (sz : Size) (n : Reg) (v : Long) :
    (s.mergeD sz n v).intLevel = s.intLevel := rfl
@[simp] theorem State.mergeD_nmiPending (s : State) (sz : Size) (n : Reg) (v : Long) :
    (s.mergeD sz n v).nmiPending = s.nmiPending := rfl
@[simp] theorem State.mergeD_delayedIrq (s : State) (sz : Size) (n : Reg) (v : Long) :
    (s.mergeD sz n v).delayedIrq = s.delayedIrq := rfl
@[simp] theorem State.mergeD_runMode (s : State) (sz : Size) (n : Reg) (v : Long) :
    (s.mergeD sz n v).runMode = s.runMode := rfl
@[simp] theorem State.mergeD_stopped (s : State) (sz : Size) (n : Reg) (v : Long) :
    (s.mergeD sz n v).stopped = s.stopped := rfl
@[simp] theorem State.mergeD_haltPin (s : State) (sz : Size) (n : Reg) (v : Long) :
    (s.mergeD sz n v).haltPin = s.haltPin := rfl
@[simp] theorem State.mergeD_doubleFault (s : State) (sz : Size) (n : Reg) (v : Long) :
    (s.mergeD sz n v).doubleFault = s.doubleFault := rfl
@[simp] theorem State.mergeD_tracePending (s : State) (sz : Size) (n : Reg) (v : Long) :
    (s.mergeD sz n v).tracePending = s.tracePending := rfl
@[simp] theorem State.mergeD_aerrAddress (s : State) (sz : Size) (n : Reg) (v : Long) :
    (s.mergeD sz n v).aerrAddress = s.aerrAddress := rfl
@[simp] theorem State.mergeD_aerrWrite (s : State) (sz : Size) (n : Reg) (v : Long) :
    (s.mergeD sz n v).aerrWrite = s.aerrWrite := rfl
@[simp] theorem State.mergeD_aerrInstr (s : State) (sz : Size) (n : Reg) (v : Long) :
    (s.mergeD sz n v).aerrInstr = s.aerrInstr := rfl
@[simp] theorem State.mergeD_aerrFc (s : State) (sz : Size) (n : Reg) (v : Long) :
    (s.mergeD sz n v).aerrFc = s.aerrFc := rfl
@[simp] theorem State.mergeD_saved (s : State) (sz : Size) (n : Reg) (v : Long) :
    (s.mergeD sz n v).saved = s.saved := rfl
@[simp] theorem State.mergeD_cyclesTotal (s : State) (sz : Size) (n : Reg) (v : Long) :
    (s.mergeD sz n v).cyclesTotal = s.cyclesTotal := rfl
@[simp] theorem State.mergeD_cyclesRun (s : State) (sz : Size) (n : Reg) (v : Long) :
    (s.mergeD sz n v).cyclesRun = s.cyclesRun := rfl
@[simp] theorem State.mergeD_budget (s : State) (sz : Size) (n : Reg) (v : Long) :
    (s.mergeD sz n v).budget = s.budget := rfl
@[simp] theorem State.mergeD_idlePc (s : State) (sz : Size) (n : Reg) (v : Long) :
    (s.mergeD sz n v).idlePc = s.idlePc := rfl
@[simp] theorem State.mergeD_idleCycle (s : State) (sz : Size) (n : Reg) (v : Long) :
    (s.mergeD sz n v).idleCycle = s.idleCycle := rfl
@[simp] theorem State.mergeD_idleDetected (s : State) (sz : Size) (n : Reg) (v : Long) :
    (s.mergeD sz n v).idleDetected = s.idleDetected := rfl
@[simp] theorem State.mergeD_handlers (s : State) (sz : Size) (n : Reg) (v : Long) :
    (s.mergeD sz n v).handlers = s.handlers := rfl
@[simp] theorem State.mergeD_map (s : State) (sz : Size) (n : Reg) (v : Long) :
    (s.mergeD sz n v).map = s.map := rfl
@[simp] theorem State.mergeD_mem (s : State) (sz : Size) (n : Reg) (v : Long) :
    (s.mergeD sz n v).mem = s.mem := rfl
@[simp] theorem State.mergeD_cfg (s : State) (sz : Size) (n : Reg) (v : Long) :
    (s.mergeD sz n v).cfg = s.cfg := rfl
@[simp] theorem State.mergeD_draws (s : State) (sz : Size) (n : Reg) (v : Long) :
    (s.mergeD sz n v).draws = s.draws := rfl
@[simp] theorem State.mergeD_script (s : State) (sz : Size) (n : Reg) (v : Long) :
    (s.mergeD sz n v).script = s.script := rfl
@[simp] theorem State.mergeD_calls (s : State) (sz : Size) (n : Reg) (v : Long) :
    (s.mergeD sz n v).calls = s.calls := rfl
@[simp] theorem State.mergeD_lastEnd (s : State) (sz : Size) (n : Reg) (v : Long) :
    (s.mergeD sz n v).lastEnd = s.lastEnd := rfl

/-! ### setSr -/

@[simp] theorem State.setSr_d (s : State) (v : Word) : (s.setSr v).d = s.d := rfl
@[simp] theorem State.setSr_a (s : State) (v : Word) : (s.setSr v).a = s.a := rfl
@[simp] theorem State.setSr_usp (s : State) (v : Word) : (s.setSr v).usp = s.usp := rfl
@[simp] theorem State.setSr_ssp (s : State) (v : Word) : (s.setSr v).ssp = s.ssp := rfl
@[simp] theorem State.setSr_pc (s : State) (v : Word) : (s.setSr v).pc = s.pc := rfl
@[simp] theorem State.setSr_sr (s : State) (v : Word) : (s.setSr v).sr = v &&& srMask := rfl
@[simp] theorem State.setSr_ir (s : State) (v : Word) : (s.setSr v).ir = s.ir := rfl
@[simp] theorem State.setSr_prefAddr (s : State) (v : Word) :
    (s.setSr v).prefAddr = s.prefAddr := rfl
@[simp] theorem State.setSr_prefData (s : State) (v : Word) :
    (s.setSr v).prefData = s.prefData := rfl
@[simp] theorem State.setSr_fc (s : State) (v : Word) : (s.setSr v).fc = s.fc := rfl
@[simp] theorem State.setSr_instPc (s : State) (v : Word) : (s.setSr v).instPc = s.instPc := rfl
@[simp] theorem State.setSr_intLevel (s : State) (v : Word) :
    (s.setSr v).intLevel = s.intLevel := rfl
@[simp] theorem State.setSr_nmiPending (s : State) (v : Word) :
    (s.setSr v).nmiPending = s.nmiPending := rfl
@[simp] theorem State.setSr_delayedIrq (s : State) (v : Word) :
    (s.setSr v).delayedIrq = s.delayedIrq := rfl
@[simp] theorem State.setSr_runMode (s : State) (v : Word) : (s.setSr v).runMode = s.runMode := rfl
@[simp] theorem State.setSr_stopped (s : State) (v : Word) : (s.setSr v).stopped = s.stopped := rfl
@[simp] theorem State.setSr_haltPin (s : State) (v : Word) : (s.setSr v).haltPin = s.haltPin := rfl
@[simp] theorem State.setSr_doubleFault (s : State) (v : Word) :
    (s.setSr v).doubleFault = s.doubleFault := rfl
@[simp] theorem State.setSr_tracePending (s : State) (v : Word) :
    (s.setSr v).tracePending = s.tracePending := rfl
@[simp] theorem State.setSr_aerrAddress (s : State) (v : Word) :
    (s.setSr v).aerrAddress = s.aerrAddress := rfl
@[simp] theorem State.setSr_aerrWrite (s : State) (v : Word) :
    (s.setSr v).aerrWrite = s.aerrWrite := rfl
@[simp] theorem State.setSr_aerrInstr (s : State) (v : Word) :
    (s.setSr v).aerrInstr = s.aerrInstr := rfl
@[simp] theorem State.setSr_aerrFc (s : State) (v : Word) : (s.setSr v).aerrFc = s.aerrFc := rfl
@[simp] theorem State.setSr_saved (s : State) (v : Word) : (s.setSr v).saved = s.saved := rfl
@[simp] theorem State.setSr_cyclesTotal (s : State) (v : Word) :
    (s.setSr v).cyclesTotal = s.cyclesTotal := rfl
@[simp] theorem State.setSr_cyclesRun (s : State) (v : Word) :
    (s.setSr v).cyclesRun = s.cyclesRun := rfl
@[simp] theorem State.setSr_budget (s : State) (v : Word) : (s.setSr v).budget = s.budget := rfl
@[simp] theorem State.setSr_idlePc (s : State) (v : Word) : (s.setSr v).idlePc = s.idlePc := rfl
@[simp] theorem State.setSr_idleCycle (s : State) (v : Word) :
    (s.setSr v).idleCycle = s.idleCycle := rfl
@[simp] theorem State.setSr_idleDetected (s : State) (v : Word) :
    (s.setSr v).idleDetected = s.idleDetected := rfl
@[simp] theorem State.setSr_handlers (s : State) (v : Word) :
    (s.setSr v).handlers = s.handlers := rfl
@[simp] theorem State.setSr_map (s : State) (v : Word) : (s.setSr v).map = s.map := rfl
@[simp] theorem State.setSr_mem (s : State) (v : Word) : (s.setSr v).mem = s.mem := rfl
@[simp] theorem State.setSr_cfg (s : State) (v : Word) : (s.setSr v).cfg = s.cfg := rfl
@[simp] theorem State.setSr_draws (s : State) (v : Word) : (s.setSr v).draws = s.draws := rfl
@[simp] theorem State.setSr_script (s : State) (v : Word) : (s.setSr v).script = s.script := rfl
@[simp] theorem State.setSr_calls (s : State) (v : Word) : (s.setSr v).calls = s.calls := rfl
@[simp] theorem State.setSr_lastEnd (s : State) (v : Word) : (s.setSr v).lastEnd = s.lastEnd := rfl

/-! ### setCcr -/

@[simp] theorem State.setCcr_d (s : State) (v : BitVec 5) : (s.setCcr v).d = s.d := rfl
@[simp] theorem State.setCcr_a (s : State) (v : BitVec 5) : (s.setCcr v).a = s.a := rfl
@[simp] theorem State.setCcr_usp (s : State) (v : BitVec 5) : (s.setCcr v).usp = s.usp := rfl
@[simp] theorem State.setCcr_ssp (s : State) (v : BitVec 5) : (s.setCcr v).ssp = s.ssp := rfl
@[simp] theorem State.setCcr_pc (s : State) (v : BitVec 5) : (s.setCcr v).pc = s.pc := rfl
@[simp] theorem State.setCcr_ir (s : State) (v : BitVec 5) : (s.setCcr v).ir = s.ir := rfl
@[simp] theorem State.setCcr_prefAddr (s : State) (v : BitVec 5) :
    (s.setCcr v).prefAddr = s.prefAddr := rfl
@[simp] theorem State.setCcr_prefData (s : State) (v : BitVec 5) :
    (s.setCcr v).prefData = s.prefData := rfl
@[simp] theorem State.setCcr_fc (s : State) (v : BitVec 5) : (s.setCcr v).fc = s.fc := rfl
@[simp] theorem State.setCcr_instPc (s : State) (v : BitVec 5) :
    (s.setCcr v).instPc = s.instPc := rfl
@[simp] theorem State.setCcr_intLevel (s : State) (v : BitVec 5) :
    (s.setCcr v).intLevel = s.intLevel := rfl
@[simp] theorem State.setCcr_nmiPending (s : State) (v : BitVec 5) :
    (s.setCcr v).nmiPending = s.nmiPending := rfl
@[simp] theorem State.setCcr_delayedIrq (s : State) (v : BitVec 5) :
    (s.setCcr v).delayedIrq = s.delayedIrq := rfl
@[simp] theorem State.setCcr_runMode (s : State) (v : BitVec 5) :
    (s.setCcr v).runMode = s.runMode := rfl
@[simp] theorem State.setCcr_stopped (s : State) (v : BitVec 5) :
    (s.setCcr v).stopped = s.stopped := rfl
@[simp] theorem State.setCcr_haltPin (s : State) (v : BitVec 5) :
    (s.setCcr v).haltPin = s.haltPin := rfl
@[simp] theorem State.setCcr_doubleFault (s : State) (v : BitVec 5) :
    (s.setCcr v).doubleFault = s.doubleFault := rfl
@[simp] theorem State.setCcr_tracePending (s : State) (v : BitVec 5) :
    (s.setCcr v).tracePending = s.tracePending := rfl
@[simp] theorem State.setCcr_aerrAddress (s : State) (v : BitVec 5) :
    (s.setCcr v).aerrAddress = s.aerrAddress := rfl
@[simp] theorem State.setCcr_aerrWrite (s : State) (v : BitVec 5) :
    (s.setCcr v).aerrWrite = s.aerrWrite := rfl
@[simp] theorem State.setCcr_aerrInstr (s : State) (v : BitVec 5) :
    (s.setCcr v).aerrInstr = s.aerrInstr := rfl
@[simp] theorem State.setCcr_aerrFc (s : State) (v : BitVec 5) :
    (s.setCcr v).aerrFc = s.aerrFc := rfl
@[simp] theorem State.setCcr_saved (s : State) (v : BitVec 5) : (s.setCcr v).saved = s.saved := rfl
@[simp] theorem State.setCcr_cyclesTotal (s : State) (v : BitVec 5) :
    (s.setCcr v).cyclesTotal = s.cyclesTotal := rfl
@[simp] theorem State.setCcr_cyclesRun (s : State) (v : BitVec 5) :
    (s.setCcr v).cyclesRun = s.cyclesRun := rfl
@[simp] theorem State.setCcr_budget (s : State) (v : BitVec 5) :
    (s.setCcr v).budget = s.budget := rfl
@[simp] theorem State.setCcr_idlePc (s : State) (v : BitVec 5) :
    (s.setCcr v).idlePc = s.idlePc := rfl
@[simp] theorem State.setCcr_idleCycle (s : State) (v : BitVec 5) :
    (s.setCcr v).idleCycle = s.idleCycle := rfl
@[simp] theorem State.setCcr_idleDetected (s : State) (v : BitVec 5) :
    (s.setCcr v).idleDetected = s.idleDetected := rfl
@[simp] theorem State.setCcr_handlers (s : State) (v : BitVec 5) :
    (s.setCcr v).handlers = s.handlers := rfl
@[simp] theorem State.setCcr_map (s : State) (v : BitVec 5) : (s.setCcr v).map = s.map := rfl
@[simp] theorem State.setCcr_mem (s : State) (v : BitVec 5) : (s.setCcr v).mem = s.mem := rfl
@[simp] theorem State.setCcr_cfg (s : State) (v : BitVec 5) : (s.setCcr v).cfg = s.cfg := rfl
@[simp] theorem State.setCcr_draws (s : State) (v : BitVec 5) : (s.setCcr v).draws = s.draws := rfl
@[simp] theorem State.setCcr_script (s : State) (v : BitVec 5) :
    (s.setCcr v).script = s.script := rfl
@[simp] theorem State.setCcr_calls (s : State) (v : BitVec 5) : (s.setCcr v).calls = s.calls := rfl
@[simp] theorem State.setCcr_lastEnd (s : State) (v : BitVec 5) :
    (s.setCcr v).lastEnd = s.lastEnd := rfl

/-! ### setFlags -/

@[simp] theorem State.setFlags_d (s : State) (f : Flags) : (s.setFlags f).d = s.d := rfl
@[simp] theorem State.setFlags_a (s : State) (f : Flags) : (s.setFlags f).a = s.a := rfl
@[simp] theorem State.setFlags_usp (s : State) (f : Flags) : (s.setFlags f).usp = s.usp := rfl
@[simp] theorem State.setFlags_ssp (s : State) (f : Flags) : (s.setFlags f).ssp = s.ssp := rfl
@[simp] theorem State.setFlags_pc (s : State) (f : Flags) : (s.setFlags f).pc = s.pc := rfl
@[simp] theorem State.setFlags_ir (s : State) (f : Flags) : (s.setFlags f).ir = s.ir := rfl
@[simp] theorem State.setFlags_prefAddr (s : State) (f : Flags) :
    (s.setFlags f).prefAddr = s.prefAddr := rfl
@[simp] theorem State.setFlags_prefData (s : State) (f : Flags) :
    (s.setFlags f).prefData = s.prefData := rfl
@[simp] theorem State.setFlags_fc (s : State) (f : Flags) : (s.setFlags f).fc = s.fc := rfl
@[simp] theorem State.setFlags_instPc (s : State) (f : Flags) :
    (s.setFlags f).instPc = s.instPc := rfl
@[simp] theorem State.setFlags_intLevel (s : State) (f : Flags) :
    (s.setFlags f).intLevel = s.intLevel := rfl
@[simp] theorem State.setFlags_nmiPending (s : State) (f : Flags) :
    (s.setFlags f).nmiPending = s.nmiPending := rfl
@[simp] theorem State.setFlags_delayedIrq (s : State) (f : Flags) :
    (s.setFlags f).delayedIrq = s.delayedIrq := rfl
@[simp] theorem State.setFlags_runMode (s : State) (f : Flags) :
    (s.setFlags f).runMode = s.runMode := rfl
@[simp] theorem State.setFlags_stopped (s : State) (f : Flags) :
    (s.setFlags f).stopped = s.stopped := rfl
@[simp] theorem State.setFlags_haltPin (s : State) (f : Flags) :
    (s.setFlags f).haltPin = s.haltPin := rfl
@[simp] theorem State.setFlags_doubleFault (s : State) (f : Flags) :
    (s.setFlags f).doubleFault = s.doubleFault := rfl
@[simp] theorem State.setFlags_tracePending (s : State) (f : Flags) :
    (s.setFlags f).tracePending = s.tracePending := rfl
@[simp] theorem State.setFlags_aerrAddress (s : State) (f : Flags) :
    (s.setFlags f).aerrAddress = s.aerrAddress := rfl
@[simp] theorem State.setFlags_aerrWrite (s : State) (f : Flags) :
    (s.setFlags f).aerrWrite = s.aerrWrite := rfl
@[simp] theorem State.setFlags_aerrInstr (s : State) (f : Flags) :
    (s.setFlags f).aerrInstr = s.aerrInstr := rfl
@[simp] theorem State.setFlags_aerrFc (s : State) (f : Flags) :
    (s.setFlags f).aerrFc = s.aerrFc := rfl
@[simp] theorem State.setFlags_saved (s : State) (f : Flags) : (s.setFlags f).saved = s.saved := rfl
@[simp] theorem State.setFlags_cyclesTotal (s : State) (f : Flags) :
    (s.setFlags f).cyclesTotal = s.cyclesTotal := rfl
@[simp] theorem State.setFlags_cyclesRun (s : State) (f : Flags) :
    (s.setFlags f).cyclesRun = s.cyclesRun := rfl
@[simp] theorem State.setFlags_budget (s : State) (f : Flags) :
    (s.setFlags f).budget = s.budget := rfl
@[simp] theorem State.setFlags_idlePc (s : State) (f : Flags) :
    (s.setFlags f).idlePc = s.idlePc := rfl
@[simp] theorem State.setFlags_idleCycle (s : State) (f : Flags) :
    (s.setFlags f).idleCycle = s.idleCycle := rfl
@[simp] theorem State.setFlags_idleDetected (s : State) (f : Flags) :
    (s.setFlags f).idleDetected = s.idleDetected := rfl
@[simp] theorem State.setFlags_handlers (s : State) (f : Flags) :
    (s.setFlags f).handlers = s.handlers := rfl
@[simp] theorem State.setFlags_map (s : State) (f : Flags) : (s.setFlags f).map = s.map := rfl
@[simp] theorem State.setFlags_mem (s : State) (f : Flags) : (s.setFlags f).mem = s.mem := rfl
@[simp] theorem State.setFlags_cfg (s : State) (f : Flags) : (s.setFlags f).cfg = s.cfg := rfl
@[simp] theorem State.setFlags_draws (s : State) (f : Flags) : (s.setFlags f).draws = s.draws := rfl
@[simp] theorem State.setFlags_script (s : State) (f : Flags) :
    (s.setFlags f).script = s.script := rfl
@[simp] theorem State.setFlags_calls (s : State) (f : Flags) : (s.setFlags f).calls = s.calls := rfl
@[simp] theorem State.setFlags_lastEnd (s : State) (f : Flags) :
    (s.setFlags f).lastEnd = s.lastEnd := rfl

/-! ### takeSaved -/

@[simp] theorem State.takeSaved_d (s : State) : s.takeSaved.d = s.d := rfl
@[simp] theorem State.takeSaved_a (s : State) : s.takeSaved.a = s.a := rfl
@[simp] theorem State.takeSaved_usp (s : State) : s.takeSaved.usp = s.usp := rfl
@[simp] theorem State.takeSaved_ssp (s : State) : s.takeSaved.ssp = s.ssp := rfl
@[simp] theorem State.takeSaved_pc (s : State) : s.takeSaved.pc = s.pc := rfl
@[simp] theorem State.takeSaved_sr (s : State) : s.takeSaved.sr = s.sr := rfl
@[simp] theorem State.takeSaved_ir (s : State) : s.takeSaved.ir = s.ir := rfl
@[simp] theorem State.takeSaved_prefAddr (s : State) : s.takeSaved.prefAddr = s.prefAddr := rfl
@[simp] theorem State.takeSaved_prefData (s : State) : s.takeSaved.prefData = s.prefData := rfl
@[simp] theorem State.takeSaved_fc (s : State) : s.takeSaved.fc = s.fc := rfl
@[simp] theorem State.takeSaved_instPc (s : State) : s.takeSaved.instPc = s.instPc := rfl
@[simp] theorem State.takeSaved_intLevel (s : State) : s.takeSaved.intLevel = s.intLevel := rfl
@[simp] theorem State.takeSaved_nmiPending (s : State) :
    s.takeSaved.nmiPending = s.nmiPending := rfl
@[simp] theorem State.takeSaved_delayedIrq (s : State) :
    s.takeSaved.delayedIrq = s.delayedIrq := rfl
@[simp] theorem State.takeSaved_runMode (s : State) : s.takeSaved.runMode = s.runMode := rfl
@[simp] theorem State.takeSaved_stopped (s : State) : s.takeSaved.stopped = s.stopped := rfl
@[simp] theorem State.takeSaved_haltPin (s : State) : s.takeSaved.haltPin = s.haltPin := rfl
@[simp] theorem State.takeSaved_doubleFault (s : State) :
    s.takeSaved.doubleFault = s.doubleFault := rfl
@[simp] theorem State.takeSaved_tracePending (s : State) :
    s.takeSaved.tracePending = s.tracePending := rfl
@[simp] theorem State.takeSaved_aerrAddress (s : State) :
    s.takeSaved.aerrAddress = s.aerrAddress := rfl
@[simp] theorem State.takeSaved_aerrWrite (s : State) : s.takeSaved.aerrWrite = s.aerrWrite := rfl
@[simp] theorem State.takeSaved_aerrInstr (s : State) : s.takeSaved.aerrInstr = s.aerrInstr := rfl
@[simp] theorem State.takeSaved_aerrFc (s : State) : s.takeSaved.aerrFc = s.aerrFc := rfl
@[simp] theorem State.takeSaved_saved (s : State) : s.takeSaved.saved = s.registers := rfl
@[simp] theorem State.takeSaved_cyclesTotal (s : State) :
    s.takeSaved.cyclesTotal = s.cyclesTotal := rfl
@[simp] theorem State.takeSaved_cyclesRun (s : State) : s.takeSaved.cyclesRun = s.cyclesRun := rfl
@[simp] theorem State.takeSaved_budget (s : State) : s.takeSaved.budget = s.budget := rfl
@[simp] theorem State.takeSaved_idlePc (s : State) : s.takeSaved.idlePc = s.idlePc := rfl
@[simp] theorem State.takeSaved_idleCycle (s : State) : s.takeSaved.idleCycle = s.idleCycle := rfl
@[simp] theorem State.takeSaved_idleDetected (s : State) :
    s.takeSaved.idleDetected = s.idleDetected := rfl
@[simp] theorem State.takeSaved_handlers (s : State) : s.takeSaved.handlers = s.handlers := rfl
@[simp] theorem State.takeSaved_map (s : State) : s.takeSaved.map = s.map := rfl
@[simp] theorem State.takeSaved_mem (s : State) : s.takeSaved.mem = s.mem := rfl
@[simp] theorem State.takeSaved_cfg (s : State) : s.takeSaved.cfg = s.cfg := rfl
@[simp] theorem State.takeSaved_draws (s : State) : s.takeSaved.draws = s.draws := rfl
@[simp] theorem State.takeSaved_script (s : State) : s.takeSaved.script = s.script := rfl
@[simp] theorem State.takeSaved_calls (s : State) : s.takeSaved.calls = s.calls := rfl
@[simp] theorem State.takeSaved_lastEnd (s : State) : s.takeSaved.lastEnd = s.lastEnd := rfl

/-! ### restoreSaved -/

@[simp] theorem State.restoreSaved_d (s : State) : s.restoreSaved.d = s.saved.d := rfl
@[simp] theorem State.restoreSaved_a (s : State) : s.restoreSaved.a = s.saved.a := rfl
@[simp] theorem State.restoreSaved_usp (s : State) : s.restoreSaved.usp = s.saved.usp := rfl
@[simp] theorem State.restoreSaved_ssp (s : State) : s.restoreSaved.ssp = s.saved.ssp := rfl
@[simp] theorem State.restoreSaved_pc (s : State) : s.restoreSaved.pc = s.pc := rfl
@[simp] theorem State.restoreSaved_sr (s : State) : s.restoreSaved.sr = s.saved.sr := rfl
@[simp] theorem State.restoreSaved_ir (s : State) : s.restoreSaved.ir = s.ir := rfl
@[simp] theorem State.restoreSaved_prefAddr (s : State) :
    s.restoreSaved.prefAddr = s.prefAddr := rfl
@[simp] theorem State.restoreSaved_prefData (s : State) :
    s.restoreSaved.prefData = s.prefData := rfl
@[simp] theorem State.restoreSaved_fc (s : State) : s.restoreSaved.fc = s.fc := rfl
@[simp] theorem State.restoreSaved_instPc (s : State) : s.restoreSaved.instPc = s.instPc := rfl
@[simp] theorem State.restoreSaved_intLevel (s : State) :
    s.restoreSaved.intLevel = s.intLevel := rfl
@[simp] theorem State.restoreSaved_nmiPending (s : State) :
    s.restoreSaved.nmiPending = s.nmiPending := rfl
@[simp] theorem State.restoreSaved_delayedIrq (s : State) :
    s.restoreSaved.delayedIrq = s.delayedIrq := rfl
@[simp] theorem State.restoreSaved_runMode (s : State) : s.restoreSaved.runMode = s.runMode := rfl
@[simp] theorem State.restoreSaved_stopped (s : State) : s.restoreSaved.stopped = s.stopped := rfl
@[simp] theorem State.restoreSaved_haltPin (s : State) : s.restoreSaved.haltPin = s.haltPin := rfl
@[simp] theorem State.restoreSaved_doubleFault (s : State) :
    s.restoreSaved.doubleFault = s.doubleFault := rfl
@[simp] theorem State.restoreSaved_tracePending (s : State) :
    s.restoreSaved.tracePending = s.tracePending := rfl
@[simp] theorem State.restoreSaved_aerrAddress (s : State) :
    s.restoreSaved.aerrAddress = s.aerrAddress := rfl
@[simp] theorem State.restoreSaved_aerrWrite (s : State) :
    s.restoreSaved.aerrWrite = s.aerrWrite := rfl
@[simp] theorem State.restoreSaved_aerrInstr (s : State) :
    s.restoreSaved.aerrInstr = s.aerrInstr := rfl
@[simp] theorem State.restoreSaved_aerrFc (s : State) : s.restoreSaved.aerrFc = s.aerrFc := rfl
@[simp] theorem State.restoreSaved_saved (s : State) : s.restoreSaved.saved = s.saved := rfl
@[simp] theorem State.restoreSaved_cyclesTotal (s : State) :
    s.restoreSaved.cyclesTotal = s.cyclesTotal := rfl
@[simp] theorem State.restoreSaved_cyclesRun (s : State) :
    s.restoreSaved.cyclesRun = s.cyclesRun := rfl
@[simp] theorem State.restoreSaved_budget (s : State) : s.restoreSaved.budget = s.budget := rfl
@[simp] theorem State.restoreSaved_idlePc (s : State) : s.restoreSaved.idlePc = s.idlePc := rfl
@[simp] theorem State.restoreSaved_idleCycle (s : State) :
    s.restoreSaved.idleCycle = s.idleCycle := rfl
@[simp] theorem State.restoreSaved_idleDetected (s : State) :
    s.restoreSaved.idleDetected = s.idleDetected := rfl
@[simp] theorem State.restoreSaved_handlers (s : State) :
    s.restoreSaved.handlers = s.handlers := rfl
@[simp] theorem State.restoreSaved_map (s : State) : s.restoreSaved.map = s.map := rfl
@[simp] theorem State.restoreSaved_mem (s : State) : s.restoreSaved.mem = s.mem := rfl
@[simp] theorem State.restoreSaved_cfg (s : State) : s.restoreSaved.cfg = s.cfg := rfl
@[simp] theorem State.restoreSaved_draws (s : State) : s.restoreSaved.draws = s.draws := rfl
@[simp] theorem State.restoreSaved_script (s : State) : s.restoreSaved.script = s.script := rfl
@[simp] theorem State.restoreSaved_calls (s : State) : s.restoreSaved.calls = s.calls := rfl
@[simp] theorem State.restoreSaved_lastEnd (s : State) : s.restoreSaved.lastEnd = s.lastEnd := rfl

/-! ### charge -/

@[simp] theorem charge_d (s : State) (c : Nat) : (charge c s).d = s.d := rfl
@[simp] theorem charge_a (s : State) (c : Nat) : (charge c s).a = s.a := rfl
@[simp] theorem charge_usp (s : State) (c : Nat) : (charge c s).usp = s.usp := rfl
@[simp] theorem charge_ssp (s : State) (c : Nat) : (charge c s).ssp = s.ssp := rfl
@[simp] theorem charge_pc (s : State) (c : Nat) : (charge c s).pc = s.pc := rfl
@[simp] theorem charge_sr (s : State) (c : Nat) : (charge c s).sr = s.sr := rfl
@[simp] theorem charge_ir (s : State) (c : Nat) : (charge c s).ir = s.ir := rfl
@[simp] theorem charge_prefAddr (s : State) (c : Nat) : (charge c s).prefAddr = s.prefAddr := rfl
@[simp] theorem charge_prefData (s : State) (c : Nat) : (charge c s).prefData = s.prefData := rfl
@[simp] theorem charge_fc (s : State) (c : Nat) : (charge c s).fc = s.fc := rfl
@[simp] theorem charge_instPc (s : State) (c : Nat) : (charge c s).instPc = s.instPc := rfl
@[simp] theorem charge_intLevel (s : State) (c : Nat) : (charge c s).intLevel = s.intLevel := rfl
@[simp] theorem charge_nmiPending (s : State) (c : Nat) :
    (charge c s).nmiPending = s.nmiPending := rfl
@[simp] theorem charge_delayedIrq (s : State) (c : Nat) :
    (charge c s).delayedIrq = s.delayedIrq := rfl
@[simp] theorem charge_runMode (s : State) (c : Nat) : (charge c s).runMode = s.runMode := rfl
@[simp] theorem charge_stopped (s : State) (c : Nat) : (charge c s).stopped = s.stopped := rfl
@[simp] theorem charge_haltPin (s : State) (c : Nat) : (charge c s).haltPin = s.haltPin := rfl
@[simp] theorem charge_doubleFault (s : State) (c : Nat) :
    (charge c s).doubleFault = s.doubleFault := rfl
@[simp] theorem charge_tracePending (s : State) (c : Nat) :
    (charge c s).tracePending = s.tracePending := rfl
@[simp] theorem charge_aerrAddress (s : State) (c : Nat) :
    (charge c s).aerrAddress = s.aerrAddress := rfl
@[simp] theorem charge_aerrWrite (s : State) (c : Nat) : (charge c s).aerrWrite = s.aerrWrite := rfl
@[simp] theorem charge_aerrInstr (s : State) (c : Nat) : (charge c s).aerrInstr = s.aerrInstr := rfl
@[simp] theorem charge_aerrFc (s : State) (c : Nat) : (charge c s).aerrFc = s.aerrFc := rfl
@[simp] theorem charge_saved (s : State) (c : Nat) : (charge c s).saved = s.saved := rfl
@[simp] theorem charge_cyclesTotal (s : State) (c : Nat) :
    (charge c s).cyclesTotal = s.cyclesTotal + c := rfl
@[simp] theorem charge_cyclesRun (s : State) (c : Nat) :
    (charge c s).cyclesRun = s.cyclesRun + c := rfl
@[simp] theorem charge_budget (s : State) (c : Nat) : (charge c s).budget = s.budget := rfl
@[simp] theorem charge_idlePc (s : State) (c : Nat) : (charge c s).idlePc = s.idlePc := rfl
@[simp] theorem charge_idleCycle (s : State) (c : Nat) : (charge c s).idleCycle = s.idleCycle := rfl
@[simp] theorem charge_idleDetected (s : State) (c : Nat) :
    (charge c s).idleDetected = s.idleDetected := rfl
@[simp] theorem charge_handlers (s : State) (c : Nat) : (charge c s).handlers = s.handlers := rfl
@[simp] theorem charge_map (s : State) (c : Nat) : (charge c s).map = s.map := rfl
@[simp] theorem charge_mem (s : State) (c : Nat) : (charge c s).mem = s.mem := rfl
@[simp] theorem charge_cfg (s : State) (c : Nat) : (charge c s).cfg = s.cfg := rfl
@[simp] theorem charge_draws (s : State) (c : Nat) : (charge c s).draws = s.draws := rfl
@[simp] theorem charge_script (s : State) (c : Nat) : (charge c s).script = s.script := rfl
@[simp] theorem charge_calls (s : State) (c : Nat) : (charge c s).calls = s.calls := rfl
@[simp] theorem charge_lastEnd (s : State) (c : Nat) : (charge c s).lastEnd = s.lastEnd := rfl

/-! ### finish -/

@[simp] theorem finish_d (s : State) (e : StepEnd) (c : Cost) : (finish e c s).d = s.d := rfl
@[simp] theorem finish_a (s : State) (e : StepEnd) (c : Cost) : (finish e c s).a = s.a := rfl
@[simp] theorem finish_usp (s : State) (e : StepEnd) (c : Cost) : (finish e c s).usp = s.usp := rfl
@[simp] theorem finish_ssp (s : State) (e : StepEnd) (c : Cost) : (finish e c s).ssp = s.ssp := rfl
@[simp] theorem finish_pc (s : State) (e : StepEnd) (c : Cost) : (finish e c s).pc = s.pc := rfl
@[simp] theorem finish_sr (s : State) (e : StepEnd) (c : Cost) : (finish e c s).sr = s.sr := rfl
@[simp] theorem finish_ir (s : State) (e : StepEnd) (c : Cost) : (finish e c s).ir = s.ir := rfl
@[simp] theorem finish_prefAddr (s : State) (e : StepEnd) (c : Cost) :
    (finish e c s).prefAddr = s.prefAddr := rfl
@[simp] theorem finish_prefData (s : State) (e : StepEnd) (c : Cost) :
    (finish e c s).prefData = s.prefData := rfl
@[simp] theorem finish_fc (s : State) (e : StepEnd) (c : Cost) : (finish e c s).fc = s.fc := rfl
@[simp] theorem finish_instPc (s : State) (e : StepEnd) (c : Cost) :
    (finish e c s).instPc = s.instPc := rfl
@[simp] theorem finish_intLevel (s : State) (e : StepEnd) (c : Cost) :
    (finish e c s).intLevel = s.intLevel := rfl
@[simp] theorem finish_nmiPending (s : State) (e : StepEnd) (c : Cost) :
    (finish e c s).nmiPending = s.nmiPending := rfl
@[simp] theorem finish_delayedIrq (s : State) (e : StepEnd) (c : Cost) :
    (finish e c s).delayedIrq = s.delayedIrq := rfl
@[simp] theorem finish_runMode (s : State) (e : StepEnd) (c : Cost) :
    (finish e c s).runMode = s.runMode := rfl
@[simp] theorem finish_stopped (s : State) (e : StepEnd) (c : Cost) :
    (finish e c s).stopped = s.stopped := rfl
@[simp] theorem finish_haltPin (s : State) (e : StepEnd) (c : Cost) :
    (finish e c s).haltPin = s.haltPin := rfl
@[simp] theorem finish_doubleFault (s : State) (e : StepEnd) (c : Cost) :
    (finish e c s).doubleFault = s.doubleFault := rfl
@[simp] theorem finish_tracePending (s : State) (e : StepEnd) (c : Cost) :
    (finish e c s).tracePending = s.tracePending := rfl
@[simp] theorem finish_aerrAddress (s : State) (e : StepEnd) (c : Cost) :
    (finish e c s).aerrAddress = s.aerrAddress := rfl
@[simp] theorem finish_aerrWrite (s : State) (e : StepEnd) (c : Cost) :
    (finish e c s).aerrWrite = s.aerrWrite := rfl
@[simp] theorem finish_aerrInstr (s : State) (e : StepEnd) (c : Cost) :
    (finish e c s).aerrInstr = s.aerrInstr := rfl
@[simp] theorem finish_aerrFc (s : State) (e : StepEnd) (c : Cost) :
    (finish e c s).aerrFc = s.aerrFc := rfl
@[simp] theorem finish_saved (s : State) (e : StepEnd) (c : Cost) :
    (finish e c s).saved = s.saved := rfl
@[simp] theorem finish_cyclesTotal (s : State) (e : StepEnd) (c : Cost) :
    (finish e c s).cyclesTotal = s.cyclesTotal + c s.cfg.cycles := rfl
@[simp] theorem finish_cyclesRun (s : State) (e : StepEnd) (c : Cost) :
    (finish e c s).cyclesRun = s.cyclesRun + c s.cfg.cycles := rfl
@[simp] theorem finish_budget (s : State) (e : StepEnd) (c : Cost) :
    (finish e c s).budget = s.budget := rfl
@[simp] theorem finish_idlePc (s : State) (e : StepEnd) (c : Cost) :
    (finish e c s).idlePc = s.idlePc := rfl
@[simp] theorem finish_idleCycle (s : State) (e : StepEnd) (c : Cost) :
    (finish e c s).idleCycle = s.idleCycle := rfl
@[simp] theorem finish_idleDetected (s : State) (e : StepEnd) (c : Cost) :
    (finish e c s).idleDetected = s.idleDetected := rfl
@[simp] theorem finish_handlers (s : State) (e : StepEnd) (c : Cost) :
    (finish e c s).handlers = s.handlers := rfl
@[simp] theorem finish_map (s : State) (e : StepEnd) (c : Cost) : (finish e c s).map = s.map := rfl
@[simp] theorem finish_mem (s : State) (e : StepEnd) (c : Cost) : (finish e c s).mem = s.mem := rfl
@[simp] theorem finish_cfg (s : State) (e : StepEnd) (c : Cost) : (finish e c s).cfg = s.cfg := rfl
@[simp] theorem finish_draws (s : State) (e : StepEnd) (c : Cost) :
    (finish e c s).draws = s.draws := rfl
@[simp] theorem finish_script (s : State) (e : StepEnd) (c : Cost) :
    (finish e c s).script = s.script := rfl
@[simp] theorem finish_calls (s : State) (e : StepEnd) (c : Cost) :
    (finish e c s).calls = s.calls := rfl
@[simp] theorem finish_lastEnd (s : State) (e : StepEnd) (c : Cost) :
    (finish e c s).lastEnd = e := rfl

/-! ### countDown -/

@[simp] theorem countDown_d (s : State) : (countDown s).d = s.d := rfl
@[simp] theorem countDown_a (s : State) : (countDown s).a = s.a := rfl
@[simp] theorem countDown_usp (s : State) : (countDown s).usp = s.usp := rfl
@[simp] theorem countDown_ssp (s : State) : (countDown s).ssp = s.ssp := rfl
@[simp] theorem countDown_pc (s : State) : (countDown s).pc = s.pc := rfl
@[simp] theorem countDown_sr (s : State) : (countDown s).sr = s.sr := rfl
@[simp] theorem countDown_ir (s : State) : (countDown s).ir = s.ir := rfl
@[simp] theorem countDown_prefAddr (s : State) : (countDown s).prefAddr = s.prefAddr := rfl
@[simp] theorem countDown_prefData (s : State) : (countDown s).prefData = s.prefData := rfl
@[simp] theorem countDown_fc (s : State) : (countDown s).fc = s.fc := rfl
@[simp] theorem countDown_instPc (s : State) : (countDown s).instPc = s.instPc := rfl
@[simp] theorem countDown_intLevel (s : State) : (countDown s).intLevel = s.intLevel := rfl
@[simp] theorem countDown_nmiPending (s : State) : (countDown s).nmiPending = s.nmiPending := rfl
@[simp] theorem countDown_delayedIrq (s : State) :
    (countDown s).delayedIrq = s.delayedIrq.map fun p => (p.1, 0) := rfl
@[simp] theorem countDown_runMode (s : State) : (countDown s).runMode = s.runMode := rfl
@[simp] theorem countDown_stopped (s : State) : (countDown s).stopped = s.stopped := rfl
@[simp] theorem countDown_haltPin (s : State) : (countDown s).haltPin = s.haltPin := rfl
@[simp] theorem countDown_doubleFault (s : State) : (countDown s).doubleFault = s.doubleFault := rfl
@[simp] theorem countDown_tracePending (s : State) :
    (countDown s).tracePending = s.tracePending := rfl
@[simp] theorem countDown_aerrAddress (s : State) : (countDown s).aerrAddress = s.aerrAddress := rfl
@[simp] theorem countDown_aerrWrite (s : State) : (countDown s).aerrWrite = s.aerrWrite := rfl
@[simp] theorem countDown_aerrInstr (s : State) : (countDown s).aerrInstr = s.aerrInstr := rfl
@[simp] theorem countDown_aerrFc (s : State) : (countDown s).aerrFc = s.aerrFc := rfl
@[simp] theorem countDown_saved (s : State) : (countDown s).saved = s.saved := rfl
@[simp] theorem countDown_cyclesTotal (s : State) : (countDown s).cyclesTotal = s.cyclesTotal := rfl
@[simp] theorem countDown_cyclesRun (s : State) : (countDown s).cyclesRun = s.cyclesRun := rfl
@[simp] theorem countDown_budget (s : State) : (countDown s).budget = s.budget := rfl
@[simp] theorem countDown_idlePc (s : State) : (countDown s).idlePc = s.idlePc := rfl
@[simp] theorem countDown_idleCycle (s : State) : (countDown s).idleCycle = s.idleCycle := rfl
@[simp] theorem countDown_idleDetected (s : State) :
    (countDown s).idleDetected = s.idleDetected := rfl
@[simp] theorem countDown_handlers (s : State) : (countDown s).handlers = s.handlers := rfl
@[simp] theorem countDown_map (s : State) : (countDown s).map = s.map := rfl
@[simp] theorem countDown_mem (s : State) : (countDown s).mem = s.mem := rfl
@[simp] theorem countDown_cfg (s : State) : (countDown s).cfg = s.cfg := rfl
@[simp] theorem countDown_draws (s : State) : (countDown s).draws = s.draws := rfl
@[simp] theorem countDown_script (s : State) : (countDown s).script = s.script := rfl
@[simp] theorem countDown_calls (s : State) : (countDown s).calls = s.calls := rfl
@[simp] theorem countDown_lastEnd (s : State) : (countDown s).lastEnd = s.lastEnd := rfl

/-! ### countBack -/

@[simp] theorem countBack_d (s : State) (ran : Bool) :
    (countBack ran s).d = s.d := by cases ran <;> rfl
@[simp] theorem countBack_a (s : State) (ran : Bool) :
    (countBack ran s).a = s.a := by cases ran <;> rfl
@[simp] theorem countBack_usp (s : State) (ran : Bool) :
    (countBack ran s).usp = s.usp := by cases ran <;> rfl
@[simp] theorem countBack_ssp (s : State) (ran : Bool) :
    (countBack ran s).ssp = s.ssp := by cases ran <;> rfl
@[simp] theorem countBack_pc (s : State) (ran : Bool) :
    (countBack ran s).pc = s.pc := by cases ran <;> rfl
@[simp] theorem countBack_sr (s : State) (ran : Bool) :
    (countBack ran s).sr = s.sr := by cases ran <;> rfl
@[simp] theorem countBack_ir (s : State) (ran : Bool) :
    (countBack ran s).ir = s.ir := by cases ran <;> rfl
@[simp] theorem countBack_prefAddr (s : State) (ran : Bool) :
    (countBack ran s).prefAddr = s.prefAddr := by cases ran <;> rfl
@[simp] theorem countBack_prefData (s : State) (ran : Bool) :
    (countBack ran s).prefData = s.prefData := by cases ran <;> rfl
@[simp] theorem countBack_fc (s : State) (ran : Bool) :
    (countBack ran s).fc = s.fc := by cases ran <;> rfl
@[simp] theorem countBack_instPc (s : State) (ran : Bool) :
    (countBack ran s).instPc = s.instPc := by cases ran <;> rfl
@[simp] theorem countBack_intLevel (s : State) (ran : Bool) :
    (countBack ran s).intLevel = s.intLevel := by cases ran <;> rfl
@[simp] theorem countBack_nmiPending (s : State) (ran : Bool) :
    (countBack ran s).nmiPending = s.nmiPending := by cases ran <;> rfl
@[simp] theorem countBack_delayedIrq (s : State) (ran : Bool) :
    (countBack ran s).delayedIrq = if ran then s.delayedIrq else s.delayedIrq.map fun p => (p.1, 1) := by cases ran <;> rfl
@[simp] theorem countBack_runMode (s : State) (ran : Bool) :
    (countBack ran s).runMode = s.runMode := by cases ran <;> rfl
@[simp] theorem countBack_stopped (s : State) (ran : Bool) :
    (countBack ran s).stopped = s.stopped := by cases ran <;> rfl
@[simp] theorem countBack_haltPin (s : State) (ran : Bool) :
    (countBack ran s).haltPin = s.haltPin := by cases ran <;> rfl
@[simp] theorem countBack_doubleFault (s : State) (ran : Bool) :
    (countBack ran s).doubleFault = s.doubleFault := by cases ran <;> rfl
@[simp] theorem countBack_tracePending (s : State) (ran : Bool) :
    (countBack ran s).tracePending = s.tracePending := by cases ran <;> rfl
@[simp] theorem countBack_aerrAddress (s : State) (ran : Bool) :
    (countBack ran s).aerrAddress = s.aerrAddress := by cases ran <;> rfl
@[simp] theorem countBack_aerrWrite (s : State) (ran : Bool) :
    (countBack ran s).aerrWrite = s.aerrWrite := by cases ran <;> rfl
@[simp] theorem countBack_aerrInstr (s : State) (ran : Bool) :
    (countBack ran s).aerrInstr = s.aerrInstr := by cases ran <;> rfl
@[simp] theorem countBack_aerrFc (s : State) (ran : Bool) :
    (countBack ran s).aerrFc = s.aerrFc := by cases ran <;> rfl
@[simp] theorem countBack_saved (s : State) (ran : Bool) :
    (countBack ran s).saved = s.saved := by cases ran <;> rfl
@[simp] theorem countBack_cyclesTotal (s : State) (ran : Bool) :
    (countBack ran s).cyclesTotal = s.cyclesTotal := by cases ran <;> rfl
@[simp] theorem countBack_cyclesRun (s : State) (ran : Bool) :
    (countBack ran s).cyclesRun = s.cyclesRun := by cases ran <;> rfl
@[simp] theorem countBack_budget (s : State) (ran : Bool) :
    (countBack ran s).budget = s.budget := by cases ran <;> rfl
@[simp] theorem countBack_idlePc (s : State) (ran : Bool) :
    (countBack ran s).idlePc = s.idlePc := by cases ran <;> rfl
@[simp] theorem countBack_idleCycle (s : State) (ran : Bool) :
    (countBack ran s).idleCycle = s.idleCycle := by cases ran <;> rfl
@[simp] theorem countBack_idleDetected (s : State) (ran : Bool) :
    (countBack ran s).idleDetected = s.idleDetected := by cases ran <;> rfl
@[simp] theorem countBack_handlers (s : State) (ran : Bool) :
    (countBack ran s).handlers = s.handlers := by cases ran <;> rfl
@[simp] theorem countBack_map (s : State) (ran : Bool) :
    (countBack ran s).map = s.map := by cases ran <;> rfl
@[simp] theorem countBack_mem (s : State) (ran : Bool) :
    (countBack ran s).mem = s.mem := by cases ran <;> rfl
@[simp] theorem countBack_cfg (s : State) (ran : Bool) :
    (countBack ran s).cfg = s.cfg := by cases ran <;> rfl
@[simp] theorem countBack_draws (s : State) (ran : Bool) :
    (countBack ran s).draws = s.draws := by cases ran <;> rfl
@[simp] theorem countBack_script (s : State) (ran : Bool) :
    (countBack ran s).script = s.script := by cases ran <;> rfl
@[simp] theorem countBack_calls (s : State) (ran : Bool) :
    (countBack ran s).calls = s.calls := by cases ran <;> rfl
@[simp] theorem countBack_lastEnd (s : State) (ran : Bool) :
    (countBack ran s).lastEnd = s.lastEnd := by cases ran <;> rfl

/-! ### putMem -/

@[simp] theorem putMem_d (s : State) (sz : Size) (b v : Long) : (putMem sz b v s).d = s.d := rfl
@[simp] theorem putMem_a (s : State) (sz : Size) (b v : Long) : (putMem sz b v s).a = s.a := rfl
@[simp] theorem putMem_usp (s : State) (sz : Size) (b v : Long) :
    (putMem sz b v s).usp = s.usp := rfl
@[simp] theorem putMem_ssp (s : State) (sz : Size) (b v : Long) :
    (putMem sz b v s).ssp = s.ssp := rfl
@[simp] theorem putMem_pc (s : State) (sz : Size) (b v : Long) : (putMem sz b v s).pc = s.pc := rfl
@[simp] theorem putMem_sr (s : State) (sz : Size) (b v : Long) : (putMem sz b v s).sr = s.sr := rfl
@[simp] theorem putMem_ir (s : State) (sz : Size) (b v : Long) : (putMem sz b v s).ir = s.ir := rfl
@[simp] theorem putMem_prefAddr (s : State) (sz : Size) (b v : Long) :
    (putMem sz b v s).prefAddr = s.prefAddr := rfl
@[simp] theorem putMem_prefData (s : State) (sz : Size) (b v : Long) :
    (putMem sz b v s).prefData = s.prefData := rfl
@[simp] theorem putMem_fc (s : State) (sz : Size) (b v : Long) : (putMem sz b v s).fc = s.fc := rfl
@[simp] theorem putMem_instPc (s : State) (sz : Size) (b v : Long) :
    (putMem sz b v s).instPc = s.instPc := rfl
@[simp] theorem putMem_intLevel (s : State) (sz : Size) (b v : Long) :
    (putMem sz b v s).intLevel = s.intLevel := rfl
@[simp] theorem putMem_nmiPending (s : State) (sz : Size) (b v : Long) :
    (putMem sz b v s).nmiPending = s.nmiPending := rfl
@[simp] theorem putMem_delayedIrq (s : State) (sz : Size) (b v : Long) :
    (putMem sz b v s).delayedIrq = s.delayedIrq := rfl
@[simp] theorem putMem_runMode (s : State) (sz : Size) (b v : Long) :
    (putMem sz b v s).runMode = s.runMode := rfl
@[simp] theorem putMem_stopped (s : State) (sz : Size) (b v : Long) :
    (putMem sz b v s).stopped = s.stopped := rfl
@[simp] theorem putMem_haltPin (s : State) (sz : Size) (b v : Long) :
    (putMem sz b v s).haltPin = s.haltPin := rfl
@[simp] theorem putMem_doubleFault (s : State) (sz : Size) (b v : Long) :
    (putMem sz b v s).doubleFault = s.doubleFault := rfl
@[simp] theorem putMem_tracePending (s : State) (sz : Size) (b v : Long) :
    (putMem sz b v s).tracePending = s.tracePending := rfl
@[simp] theorem putMem_aerrAddress (s : State) (sz : Size) (b v : Long) :
    (putMem sz b v s).aerrAddress = s.aerrAddress := rfl
@[simp] theorem putMem_aerrWrite (s : State) (sz : Size) (b v : Long) :
    (putMem sz b v s).aerrWrite = s.aerrWrite := rfl
@[simp] theorem putMem_aerrInstr (s : State) (sz : Size) (b v : Long) :
    (putMem sz b v s).aerrInstr = s.aerrInstr := rfl
@[simp] theorem putMem_aerrFc (s : State) (sz : Size) (b v : Long) :
    (putMem sz b v s).aerrFc = s.aerrFc := rfl
@[simp] theorem putMem_saved (s : State) (sz : Size) (b v : Long) :
    (putMem sz b v s).saved = s.saved := rfl
@[simp] theorem putMem_cyclesTotal (s : State) (sz : Size) (b v : Long) :
    (putMem sz b v s).cyclesTotal = s.cyclesTotal := rfl
@[simp] theorem putMem_cyclesRun (s : State) (sz : Size) (b v : Long) :
    (putMem sz b v s).cyclesRun = s.cyclesRun := rfl
@[simp] theorem putMem_budget (s : State) (sz : Size) (b v : Long) :
    (putMem sz b v s).budget = s.budget := rfl
@[simp] theorem putMem_idlePc (s : State) (sz : Size) (b v : Long) :
    (putMem sz b v s).idlePc = s.idlePc := rfl
@[simp] theorem putMem_idleCycle (s : State) (sz : Size) (b v : Long) :
    (putMem sz b v s).idleCycle = s.idleCycle := rfl
@[simp] theorem putMem_idleDetected (s : State) (sz : Size) (b v : Long) :
    (putMem sz b v s).idleDetected = s.idleDetected := rfl
@[simp] theorem putMem_handlers (s : State) (sz : Size) (b v : Long) :
    (putMem sz b v s).handlers = s.handlers := rfl
@[simp] theorem putMem_map (s : State) (sz : Size) (b v : Long) :
    (putMem sz b v s).map = s.map := rfl
@[simp] theorem putMem_mem (s : State) (sz : Size) (b v : Long) :
    (putMem sz b v s).mem = storeBytes s.mem sz b v := rfl
@[simp] theorem putMem_cfg (s : State) (sz : Size) (b v : Long) :
    (putMem sz b v s).cfg = s.cfg := rfl
@[simp] theorem putMem_draws (s : State) (sz : Size) (b v : Long) :
    (putMem sz b v s).draws = s.draws := rfl
@[simp] theorem putMem_script (s : State) (sz : Size) (b v : Long) :
    (putMem sz b v s).script = s.script := rfl
@[simp] theorem putMem_calls (s : State) (sz : Size) (b v : Long) :
    (putMem sz b v s).calls = s.calls := rfl
@[simp] theorem putMem_lastEnd (s : State) (sz : Size) (b v : Long) :
    (putMem sz b v s).lastEnd = s.lastEnd := rfl

/-! ### skipWords -/

@[simp] theorem skipWords_d (s : State) (n : Nat) : (skipWords n s).d = s.d := rfl
@[simp] theorem skipWords_a (s : State) (n : Nat) : (skipWords n s).a = s.a := rfl
@[simp] theorem skipWords_usp (s : State) (n : Nat) : (skipWords n s).usp = s.usp := rfl
@[simp] theorem skipWords_ssp (s : State) (n : Nat) : (skipWords n s).ssp = s.ssp := rfl
@[simp] theorem skipWords_pc (s : State) (n : Nat) :
    (skipWords n s).pc = s.pc + BitVec.ofNat 32 (2 * n) := rfl
@[simp] theorem skipWords_sr (s : State) (n : Nat) : (skipWords n s).sr = s.sr := rfl
@[simp] theorem skipWords_ir (s : State) (n : Nat) : (skipWords n s).ir = s.ir := rfl
@[simp] theorem skipWords_prefAddr (s : State) (n : Nat) :
    (skipWords n s).prefAddr = s.prefAddr := rfl
@[simp] theorem skipWords_prefData (s : State) (n : Nat) :
    (skipWords n s).prefData = s.prefData := rfl
@[simp] theorem skipWords_fc (s : State) (n : Nat) : (skipWords n s).fc = s.fc := rfl
@[simp] theorem skipWords_instPc (s : State) (n : Nat) : (skipWords n s).instPc = s.instPc := rfl
@[simp] theorem skipWords_intLevel (s : State) (n : Nat) :
    (skipWords n s).intLevel = s.intLevel := rfl
@[simp] theorem skipWords_nmiPending (s : State) (n : Nat) :
    (skipWords n s).nmiPending = s.nmiPending := rfl
@[simp] theorem skipWords_delayedIrq (s : State) (n : Nat) :
    (skipWords n s).delayedIrq = s.delayedIrq := rfl
@[simp] theorem skipWords_runMode (s : State) (n : Nat) : (skipWords n s).runMode = s.runMode := rfl
@[simp] theorem skipWords_stopped (s : State) (n : Nat) : (skipWords n s).stopped = s.stopped := rfl
@[simp] theorem skipWords_haltPin (s : State) (n : Nat) : (skipWords n s).haltPin = s.haltPin := rfl
@[simp] theorem skipWords_doubleFault (s : State) (n : Nat) :
    (skipWords n s).doubleFault = s.doubleFault := rfl
@[simp] theorem skipWords_tracePending (s : State) (n : Nat) :
    (skipWords n s).tracePending = s.tracePending := rfl
@[simp] theorem skipWords_aerrAddress (s : State) (n : Nat) :
    (skipWords n s).aerrAddress = s.aerrAddress := rfl
@[simp] theorem skipWords_aerrWrite (s : State) (n : Nat) :
    (skipWords n s).aerrWrite = s.aerrWrite := rfl
@[simp] theorem skipWords_aerrInstr (s : State) (n : Nat) :
    (skipWords n s).aerrInstr = s.aerrInstr := rfl
@[simp] theorem skipWords_aerrFc (s : State) (n : Nat) : (skipWords n s).aerrFc = s.aerrFc := rfl
@[simp] theorem skipWords_saved (s : State) (n : Nat) : (skipWords n s).saved = s.saved := rfl
@[simp] theorem skipWords_cyclesTotal (s : State) (n : Nat) :
    (skipWords n s).cyclesTotal = s.cyclesTotal := rfl
@[simp] theorem skipWords_cyclesRun (s : State) (n : Nat) :
    (skipWords n s).cyclesRun = s.cyclesRun := rfl
@[simp] theorem skipWords_budget (s : State) (n : Nat) : (skipWords n s).budget = s.budget := rfl
@[simp] theorem skipWords_idlePc (s : State) (n : Nat) : (skipWords n s).idlePc = s.idlePc := rfl
@[simp] theorem skipWords_idleCycle (s : State) (n : Nat) :
    (skipWords n s).idleCycle = s.idleCycle := rfl
@[simp] theorem skipWords_idleDetected (s : State) (n : Nat) :
    (skipWords n s).idleDetected = s.idleDetected := rfl
@[simp] theorem skipWords_handlers (s : State) (n : Nat) :
    (skipWords n s).handlers = s.handlers := rfl
@[simp] theorem skipWords_map (s : State) (n : Nat) : (skipWords n s).map = s.map := rfl
@[simp] theorem skipWords_mem (s : State) (n : Nat) : (skipWords n s).mem = s.mem := rfl
@[simp] theorem skipWords_cfg (s : State) (n : Nat) : (skipWords n s).cfg = s.cfg := rfl
@[simp] theorem skipWords_draws (s : State) (n : Nat) : (skipWords n s).draws = s.draws := rfl
@[simp] theorem skipWords_script (s : State) (n : Nat) : (skipWords n s).script = s.script := rfl
@[simp] theorem skipWords_calls (s : State) (n : Nat) : (skipWords n s).calls = s.calls := rfl
@[simp] theorem skipWords_lastEnd (s : State) (n : Nat) : (skipWords n s).lastEnd = s.lastEnd := rfl

/-! ### setIrq -/

@[simp] theorem setIrq_d (s : State) (l : Level) : (setIrq l s).d = s.d := rfl
@[simp] theorem setIrq_a (s : State) (l : Level) : (setIrq l s).a = s.a := rfl
@[simp] theorem setIrq_usp (s : State) (l : Level) : (setIrq l s).usp = s.usp := rfl
@[simp] theorem setIrq_ssp (s : State) (l : Level) : (setIrq l s).ssp = s.ssp := rfl
@[simp] theorem setIrq_pc (s : State) (l : Level) : (setIrq l s).pc = s.pc := rfl
@[simp] theorem setIrq_sr (s : State) (l : Level) : (setIrq l s).sr = s.sr := rfl
@[simp] theorem setIrq_ir (s : State) (l : Level) : (setIrq l s).ir = s.ir := rfl
@[simp] theorem setIrq_prefAddr (s : State) (l : Level) : (setIrq l s).prefAddr = s.prefAddr := rfl
@[simp] theorem setIrq_prefData (s : State) (l : Level) : (setIrq l s).prefData = s.prefData := rfl
@[simp] theorem setIrq_fc (s : State) (l : Level) : (setIrq l s).fc = s.fc := rfl
@[simp] theorem setIrq_instPc (s : State) (l : Level) : (setIrq l s).instPc = s.instPc := rfl
@[simp] theorem setIrq_intLevel (s : State) (l : Level) : (setIrq l s).intLevel = l := rfl
@[simp] theorem setIrq_nmiPending (s : State) (l : Level) :
    (setIrq l s).nmiPending = (s.nmiPending || (s.intLevel != 7 && l == 7)) := rfl
@[simp] theorem setIrq_delayedIrq (s : State) (l : Level) : (setIrq l s).delayedIrq = none := rfl
@[simp] theorem setIrq_runMode (s : State) (l : Level) : (setIrq l s).runMode = s.runMode := rfl
@[simp] theorem setIrq_stopped (s : State) (l : Level) : (setIrq l s).stopped = s.stopped := rfl
@[simp] theorem setIrq_haltPin (s : State) (l : Level) : (setIrq l s).haltPin = s.haltPin := rfl
@[simp] theorem setIrq_doubleFault (s : State) (l : Level) :
    (setIrq l s).doubleFault = s.doubleFault := rfl
@[simp] theorem setIrq_tracePending (s : State) (l : Level) :
    (setIrq l s).tracePending = s.tracePending := rfl
@[simp] theorem setIrq_aerrAddress (s : State) (l : Level) :
    (setIrq l s).aerrAddress = s.aerrAddress := rfl
@[simp] theorem setIrq_aerrWrite (s : State) (l : Level) :
    (setIrq l s).aerrWrite = s.aerrWrite := rfl
@[simp] theorem setIrq_aerrInstr (s : State) (l : Level) :
    (setIrq l s).aerrInstr = s.aerrInstr := rfl
@[simp] theorem setIrq_aerrFc (s : State) (l : Level) : (setIrq l s).aerrFc = s.aerrFc := rfl
@[simp] theorem setIrq_saved (s : State) (l : Level) : (setIrq l s).saved = s.saved := rfl
@[simp] theorem setIrq_cyclesTotal (s : State) (l : Level) :
    (setIrq l s).cyclesTotal = s.cyclesTotal := rfl
@[simp] theorem setIrq_cyclesRun (s : State) (l : Level) :
    (setIrq l s).cyclesRun = s.cyclesRun := rfl
@[simp] theorem setIrq_budget (s : State) (l : Level) : (setIrq l s).budget = s.budget := rfl
@[simp] theorem setIrq_idlePc (s : State) (l : Level) : (setIrq l s).idlePc = s.idlePc := rfl
@[simp] theorem setIrq_idleCycle (s : State) (l : Level) :
    (setIrq l s).idleCycle = s.idleCycle := rfl
@[simp] theorem setIrq_idleDetected (s : State) (l : Level) :
    (setIrq l s).idleDetected = s.idleDetected := rfl
@[simp] theorem setIrq_handlers (s : State) (l : Level) : (setIrq l s).handlers = s.handlers := rfl
@[simp] theorem setIrq_map (s : State) (l : Level) : (setIrq l s).map = s.map := rfl
@[simp] theorem setIrq_mem (s : State) (l : Level) : (setIrq l s).mem = s.mem := rfl
@[simp] theorem setIrq_cfg (s : State) (l : Level) : (setIrq l s).cfg = s.cfg := rfl
@[simp] theorem setIrq_draws (s : State) (l : Level) : (setIrq l s).draws = s.draws := rfl
@[simp] theorem setIrq_script (s : State) (l : Level) : (setIrq l s).script = s.script := rfl
@[simp] theorem setIrq_calls (s : State) (l : Level) : (setIrq l s).calls = s.calls := rfl
@[simp] theorem setIrq_lastEnd (s : State) (l : Level) : (setIrq l s).lastEnd = s.lastEnd := rfl

/-! ### setIrqDelay -/

@[simp] theorem setIrqDelay_d (s : State) (l : Level) : (setIrqDelay l s).d = s.d := rfl
@[simp] theorem setIrqDelay_a (s : State) (l : Level) : (setIrqDelay l s).a = s.a := rfl
@[simp] theorem setIrqDelay_usp (s : State) (l : Level) : (setIrqDelay l s).usp = s.usp := rfl
@[simp] theorem setIrqDelay_ssp (s : State) (l : Level) : (setIrqDelay l s).ssp = s.ssp := rfl
@[simp] theorem setIrqDelay_pc (s : State) (l : Level) : (setIrqDelay l s).pc = s.pc := rfl
@[simp] theorem setIrqDelay_sr (s : State) (l : Level) : (setIrqDelay l s).sr = s.sr := rfl
@[simp] theorem setIrqDelay_ir (s : State) (l : Level) : (setIrqDelay l s).ir = s.ir := rfl
@[simp] theorem setIrqDelay_prefAddr (s : State) (l : Level) :
    (setIrqDelay l s).prefAddr = s.prefAddr := rfl
@[simp] theorem setIrqDelay_prefData (s : State) (l : Level) :
    (setIrqDelay l s).prefData = s.prefData := rfl
@[simp] theorem setIrqDelay_fc (s : State) (l : Level) : (setIrqDelay l s).fc = s.fc := rfl
@[simp] theorem setIrqDelay_instPc (s : State) (l : Level) :
    (setIrqDelay l s).instPc = s.instPc := rfl
@[simp] theorem setIrqDelay_intLevel (s : State) (l : Level) :
    (setIrqDelay l s).intLevel = s.intLevel := rfl
@[simp] theorem setIrqDelay_nmiPending (s : State) (l : Level) :
    (setIrqDelay l s).nmiPending = s.nmiPending := rfl
@[simp] theorem setIrqDelay_delayedIrq (s : State) (l : Level) :
    (setIrqDelay l s).delayedIrq = some (l, 1) := rfl
@[simp] theorem setIrqDelay_runMode (s : State) (l : Level) :
    (setIrqDelay l s).runMode = s.runMode := rfl
@[simp] theorem setIrqDelay_stopped (s : State) (l : Level) :
    (setIrqDelay l s).stopped = s.stopped := rfl
@[simp] theorem setIrqDelay_haltPin (s : State) (l : Level) :
    (setIrqDelay l s).haltPin = s.haltPin := rfl
@[simp] theorem setIrqDelay_doubleFault (s : State) (l : Level) :
    (setIrqDelay l s).doubleFault = s.doubleFault := rfl
@[simp] theorem setIrqDelay_tracePending (s : State) (l : Level) :
    (setIrqDelay l s).tracePending = s.tracePending := rfl
@[simp] theorem setIrqDelay_aerrAddress (s : State) (l : Level) :
    (setIrqDelay l s).aerrAddress = s.aerrAddress := rfl
@[simp] theorem setIrqDelay_aerrWrite (s : State) (l : Level) :
    (setIrqDelay l s).aerrWrite = s.aerrWrite := rfl
@[simp] theorem setIrqDelay_aerrInstr (s : State) (l : Level) :
    (setIrqDelay l s).aerrInstr = s.aerrInstr := rfl
@[simp] theorem setIrqDelay_aerrFc (s : State) (l : Level) :
    (setIrqDelay l s).aerrFc = s.aerrFc := rfl
@[simp] theorem setIrqDelay_saved (s : State) (l : Level) : (setIrqDelay l s).saved = s.saved := rfl
@[simp] theorem setIrqDelay_cyclesTotal (s : State) (l : Level) :
    (setIrqDelay l s).cyclesTotal = s.cyclesTotal := rfl
@[simp] theorem setIrqDelay_cyclesRun (s : State) (l : Level) :
    (setIrqDelay l s).cyclesRun = s.cyclesRun := rfl
@[simp] theorem setIrqDelay_budget (s : State) (l : Level) :
    (setIrqDelay l s).budget = s.budget := rfl
@[simp] theorem setIrqDelay_idlePc (s : State) (l : Level) :
    (setIrqDelay l s).idlePc = s.idlePc := rfl
@[simp] theorem setIrqDelay_idleCycle (s : State) (l : Level) :
    (setIrqDelay l s).idleCycle = s.idleCycle := rfl
@[simp] theorem setIrqDelay_idleDetected (s : State) (l : Level) :
    (setIrqDelay l s).idleDetected = s.idleDetected := rfl
@[simp] theorem setIrqDelay_handlers (s : State) (l : Level) :
    (setIrqDelay l s).handlers = s.handlers := rfl
@[simp] theorem setIrqDelay_map (s : State) (l : Level) : (setIrqDelay l s).map = s.map := rfl
@[simp] theorem setIrqDelay_mem (s : State) (l : Level) : (setIrqDelay l s).mem = s.mem := rfl
@[simp] theorem setIrqDelay_cfg (s : State) (l : Level) : (setIrqDelay l s).cfg = s.cfg := rfl
@[simp] theorem setIrqDelay_draws (s : State) (l : Level) : (setIrqDelay l s).draws = s.draws := rfl
@[simp] theorem setIrqDelay_script (s : State) (l : Level) :
    (setIrqDelay l s).script = s.script := rfl
@[simp] theorem setIrqDelay_calls (s : State) (l : Level) : (setIrqDelay l s).calls = s.calls := rfl
@[simp] theorem setIrqDelay_lastEnd (s : State) (l : Level) :
    (setIrqDelay l s).lastEnd = s.lastEnd := rfl

/-! ### setHalt -/

@[simp] theorem setHalt_d (s : State) : (setHalt s).d = s.d := rfl
@[simp] theorem setHalt_a (s : State) : (setHalt s).a = s.a := rfl
@[simp] theorem setHalt_usp (s : State) : (setHalt s).usp = s.usp := rfl
@[simp] theorem setHalt_ssp (s : State) : (setHalt s).ssp = s.ssp := rfl
@[simp] theorem setHalt_pc (s : State) : (setHalt s).pc = s.pc := rfl
@[simp] theorem setHalt_sr (s : State) : (setHalt s).sr = s.sr := rfl
@[simp] theorem setHalt_ir (s : State) : (setHalt s).ir = s.ir := rfl
@[simp] theorem setHalt_prefAddr (s : State) : (setHalt s).prefAddr = s.prefAddr := rfl
@[simp] theorem setHalt_prefData (s : State) : (setHalt s).prefData = s.prefData := rfl
@[simp] theorem setHalt_fc (s : State) : (setHalt s).fc = s.fc := rfl
@[simp] theorem setHalt_instPc (s : State) : (setHalt s).instPc = s.instPc := rfl
@[simp] theorem setHalt_intLevel (s : State) : (setHalt s).intLevel = s.intLevel := rfl
@[simp] theorem setHalt_nmiPending (s : State) : (setHalt s).nmiPending = s.nmiPending := rfl
@[simp] theorem setHalt_delayedIrq (s : State) : (setHalt s).delayedIrq = s.delayedIrq := rfl
@[simp] theorem setHalt_runMode (s : State) : (setHalt s).runMode = s.runMode := rfl
@[simp] theorem setHalt_stopped (s : State) : (setHalt s).stopped = s.stopped := rfl
@[simp] theorem setHalt_haltPin (s : State) : (setHalt s).haltPin = true := rfl
@[simp] theorem setHalt_doubleFault (s : State) : (setHalt s).doubleFault = s.doubleFault := rfl
@[simp] theorem setHalt_tracePending (s : State) : (setHalt s).tracePending = s.tracePending := rfl
@[simp] theorem setHalt_aerrAddress (s : State) : (setHalt s).aerrAddress = s.aerrAddress := rfl
@[simp] theorem setHalt_aerrWrite (s : State) : (setHalt s).aerrWrite = s.aerrWrite := rfl
@[simp] theorem setHalt_aerrInstr (s : State) : (setHalt s).aerrInstr = s.aerrInstr := rfl
@[simp] theorem setHalt_aerrFc (s : State) : (setHalt s).aerrFc = s.aerrFc := rfl
@[simp] theorem setHalt_saved (s : State) : (setHalt s).saved = s.saved := rfl
@[simp] theorem setHalt_cyclesTotal (s : State) : (setHalt s).cyclesTotal = s.cyclesTotal := rfl
@[simp] theorem setHalt_cyclesRun (s : State) : (setHalt s).cyclesRun = s.cyclesRun := rfl
@[simp] theorem setHalt_budget (s : State) : (setHalt s).budget = s.budget := rfl
@[simp] theorem setHalt_idlePc (s : State) : (setHalt s).idlePc = s.idlePc := rfl
@[simp] theorem setHalt_idleCycle (s : State) : (setHalt s).idleCycle = s.idleCycle := rfl
@[simp] theorem setHalt_idleDetected (s : State) : (setHalt s).idleDetected = s.idleDetected := rfl
@[simp] theorem setHalt_handlers (s : State) : (setHalt s).handlers = s.handlers := rfl
@[simp] theorem setHalt_map (s : State) : (setHalt s).map = s.map := rfl
@[simp] theorem setHalt_mem (s : State) : (setHalt s).mem = s.mem := rfl
@[simp] theorem setHalt_cfg (s : State) : (setHalt s).cfg = s.cfg := rfl
@[simp] theorem setHalt_draws (s : State) : (setHalt s).draws = s.draws := rfl
@[simp] theorem setHalt_script (s : State) : (setHalt s).script = s.script := rfl
@[simp] theorem setHalt_calls (s : State) : (setHalt s).calls = s.calls := rfl
@[simp] theorem setHalt_lastEnd (s : State) : (setHalt s).lastEnd = s.lastEnd := rfl

/-! ### clearHalt -/

@[simp] theorem clearHalt_d (s : State) : (clearHalt s).d = s.d := rfl
@[simp] theorem clearHalt_a (s : State) : (clearHalt s).a = s.a := rfl
@[simp] theorem clearHalt_usp (s : State) : (clearHalt s).usp = s.usp := rfl
@[simp] theorem clearHalt_ssp (s : State) : (clearHalt s).ssp = s.ssp := rfl
@[simp] theorem clearHalt_pc (s : State) : (clearHalt s).pc = s.pc := rfl
@[simp] theorem clearHalt_sr (s : State) : (clearHalt s).sr = s.sr := rfl
@[simp] theorem clearHalt_ir (s : State) : (clearHalt s).ir = s.ir := rfl
@[simp] theorem clearHalt_prefAddr (s : State) : (clearHalt s).prefAddr = s.prefAddr := rfl
@[simp] theorem clearHalt_prefData (s : State) : (clearHalt s).prefData = s.prefData := rfl
@[simp] theorem clearHalt_fc (s : State) : (clearHalt s).fc = s.fc := rfl
@[simp] theorem clearHalt_instPc (s : State) : (clearHalt s).instPc = s.instPc := rfl
@[simp] theorem clearHalt_intLevel (s : State) : (clearHalt s).intLevel = s.intLevel := rfl
@[simp] theorem clearHalt_nmiPending (s : State) : (clearHalt s).nmiPending = s.nmiPending := rfl
@[simp] theorem clearHalt_delayedIrq (s : State) : (clearHalt s).delayedIrq = s.delayedIrq := rfl
@[simp] theorem clearHalt_runMode (s : State) : (clearHalt s).runMode = s.runMode := rfl
@[simp] theorem clearHalt_stopped (s : State) : (clearHalt s).stopped = s.stopped := rfl
@[simp] theorem clearHalt_haltPin (s : State) : (clearHalt s).haltPin = false := rfl
@[simp] theorem clearHalt_doubleFault (s : State) : (clearHalt s).doubleFault = s.doubleFault := rfl
@[simp] theorem clearHalt_tracePending (s : State) :
    (clearHalt s).tracePending = s.tracePending := rfl
@[simp] theorem clearHalt_aerrAddress (s : State) : (clearHalt s).aerrAddress = s.aerrAddress := rfl
@[simp] theorem clearHalt_aerrWrite (s : State) : (clearHalt s).aerrWrite = s.aerrWrite := rfl
@[simp] theorem clearHalt_aerrInstr (s : State) : (clearHalt s).aerrInstr = s.aerrInstr := rfl
@[simp] theorem clearHalt_aerrFc (s : State) : (clearHalt s).aerrFc = s.aerrFc := rfl
@[simp] theorem clearHalt_saved (s : State) : (clearHalt s).saved = s.saved := rfl
@[simp] theorem clearHalt_cyclesTotal (s : State) : (clearHalt s).cyclesTotal = s.cyclesTotal := rfl
@[simp] theorem clearHalt_cyclesRun (s : State) : (clearHalt s).cyclesRun = s.cyclesRun := rfl
@[simp] theorem clearHalt_budget (s : State) : (clearHalt s).budget = s.budget := rfl
@[simp] theorem clearHalt_idlePc (s : State) : (clearHalt s).idlePc = s.idlePc := rfl
@[simp] theorem clearHalt_idleCycle (s : State) : (clearHalt s).idleCycle = s.idleCycle := rfl
@[simp] theorem clearHalt_idleDetected (s : State) :
    (clearHalt s).idleDetected = s.idleDetected := rfl
@[simp] theorem clearHalt_handlers (s : State) : (clearHalt s).handlers = s.handlers := rfl
@[simp] theorem clearHalt_map (s : State) : (clearHalt s).map = s.map := rfl
@[simp] theorem clearHalt_mem (s : State) : (clearHalt s).mem = s.mem := rfl
@[simp] theorem clearHalt_cfg (s : State) : (clearHalt s).cfg = s.cfg := rfl
@[simp] theorem clearHalt_draws (s : State) : (clearHalt s).draws = s.draws := rfl
@[simp] theorem clearHalt_script (s : State) : (clearHalt s).script = s.script := rfl
@[simp] theorem clearHalt_calls (s : State) : (clearHalt s).calls = s.calls := rfl
@[simp] theorem clearHalt_lastEnd (s : State) : (clearHalt s).lastEnd = s.lastEnd := rfl

/-! ### installIntAck -/

@[simp] theorem installIntAck_d (s : State) (h : Handler) : (installIntAck h s).d = s.d := rfl
@[simp] theorem installIntAck_a (s : State) (h : Handler) : (installIntAck h s).a = s.a := rfl
@[simp] theorem installIntAck_usp (s : State) (h : Handler) : (installIntAck h s).usp = s.usp := rfl
@[simp] theorem installIntAck_ssp (s : State) (h : Handler) : (installIntAck h s).ssp = s.ssp := rfl
@[simp] theorem installIntAck_pc (s : State) (h : Handler) : (installIntAck h s).pc = s.pc := rfl
@[simp] theorem installIntAck_sr (s : State) (h : Handler) : (installIntAck h s).sr = s.sr := rfl
@[simp] theorem installIntAck_ir (s : State) (h : Handler) : (installIntAck h s).ir = s.ir := rfl
@[simp] theorem installIntAck_prefAddr (s : State) (h : Handler) :
    (installIntAck h s).prefAddr = s.prefAddr := rfl
@[simp] theorem installIntAck_prefData (s : State) (h : Handler) :
    (installIntAck h s).prefData = s.prefData := rfl
@[simp] theorem installIntAck_fc (s : State) (h : Handler) : (installIntAck h s).fc = s.fc := rfl
@[simp] theorem installIntAck_instPc (s : State) (h : Handler) :
    (installIntAck h s).instPc = s.instPc := rfl
@[simp] theorem installIntAck_intLevel (s : State) (h : Handler) :
    (installIntAck h s).intLevel = s.intLevel := rfl
@[simp] theorem installIntAck_nmiPending (s : State) (h : Handler) :
    (installIntAck h s).nmiPending = s.nmiPending := rfl
@[simp] theorem installIntAck_delayedIrq (s : State) (h : Handler) :
    (installIntAck h s).delayedIrq = s.delayedIrq := rfl
@[simp] theorem installIntAck_runMode (s : State) (h : Handler) :
    (installIntAck h s).runMode = s.runMode := rfl
@[simp] theorem installIntAck_stopped (s : State) (h : Handler) :
    (installIntAck h s).stopped = s.stopped := rfl
@[simp] theorem installIntAck_haltPin (s : State) (h : Handler) :
    (installIntAck h s).haltPin = s.haltPin := rfl
@[simp] theorem installIntAck_doubleFault (s : State) (h : Handler) :
    (installIntAck h s).doubleFault = s.doubleFault := rfl
@[simp] theorem installIntAck_tracePending (s : State) (h : Handler) :
    (installIntAck h s).tracePending = s.tracePending := rfl
@[simp] theorem installIntAck_aerrAddress (s : State) (h : Handler) :
    (installIntAck h s).aerrAddress = s.aerrAddress := rfl
@[simp] theorem installIntAck_aerrWrite (s : State) (h : Handler) :
    (installIntAck h s).aerrWrite = s.aerrWrite := rfl
@[simp] theorem installIntAck_aerrInstr (s : State) (h : Handler) :
    (installIntAck h s).aerrInstr = s.aerrInstr := rfl
@[simp] theorem installIntAck_aerrFc (s : State) (h : Handler) :
    (installIntAck h s).aerrFc = s.aerrFc := rfl
@[simp] theorem installIntAck_saved (s : State) (h : Handler) :
    (installIntAck h s).saved = s.saved := rfl
@[simp] theorem installIntAck_cyclesTotal (s : State) (h : Handler) :
    (installIntAck h s).cyclesTotal = s.cyclesTotal := rfl
@[simp] theorem installIntAck_cyclesRun (s : State) (h : Handler) :
    (installIntAck h s).cyclesRun = s.cyclesRun := rfl
@[simp] theorem installIntAck_budget (s : State) (h : Handler) :
    (installIntAck h s).budget = s.budget := rfl
@[simp] theorem installIntAck_idlePc (s : State) (h : Handler) :
    (installIntAck h s).idlePc = s.idlePc := rfl
@[simp] theorem installIntAck_idleCycle (s : State) (h : Handler) :
    (installIntAck h s).idleCycle = s.idleCycle := rfl
@[simp] theorem installIntAck_idleDetected (s : State) (h : Handler) :
    (installIntAck h s).idleDetected = s.idleDetected := rfl
@[simp] theorem installIntAck_handlers (s : State) (h : Handler) :
    (installIntAck h s).handlers = { s.handlers with intAck := h } := rfl
@[simp] theorem installIntAck_map (s : State) (h : Handler) : (installIntAck h s).map = s.map := rfl
@[simp] theorem installIntAck_mem (s : State) (h : Handler) : (installIntAck h s).mem = s.mem := rfl
@[simp] theorem installIntAck_cfg (s : State) (h : Handler) : (installIntAck h s).cfg = s.cfg := rfl
@[simp] theorem installIntAck_draws (s : State) (h : Handler) :
    (installIntAck h s).draws = s.draws := rfl
@[simp] theorem installIntAck_script (s : State) (h : Handler) :
    (installIntAck h s).script = s.script := rfl
@[simp] theorem installIntAck_calls (s : State) (h : Handler) :
    (installIntAck h s).calls = s.calls := rfl
@[simp] theorem installIntAck_lastEnd (s : State) (h : Handler) :
    (installIntAck h s).lastEnd = s.lastEnd := rfl

/-! ### installResetInstr -/

@[simp] theorem installResetInstr_d (s : State) (h : Handler) :
    (installResetInstr h s).d = s.d := rfl
@[simp] theorem installResetInstr_a (s : State) (h : Handler) :
    (installResetInstr h s).a = s.a := rfl
@[simp] theorem installResetInstr_usp (s : State) (h : Handler) :
    (installResetInstr h s).usp = s.usp := rfl
@[simp] theorem installResetInstr_ssp (s : State) (h : Handler) :
    (installResetInstr h s).ssp = s.ssp := rfl
@[simp] theorem installResetInstr_pc (s : State) (h : Handler) :
    (installResetInstr h s).pc = s.pc := rfl
@[simp] theorem installResetInstr_sr (s : State) (h : Handler) :
    (installResetInstr h s).sr = s.sr := rfl
@[simp] theorem installResetInstr_ir (s : State) (h : Handler) :
    (installResetInstr h s).ir = s.ir := rfl
@[simp] theorem installResetInstr_prefAddr (s : State) (h : Handler) :
    (installResetInstr h s).prefAddr = s.prefAddr := rfl
@[simp] theorem installResetInstr_prefData (s : State) (h : Handler) :
    (installResetInstr h s).prefData = s.prefData := rfl
@[simp] theorem installResetInstr_fc (s : State) (h : Handler) :
    (installResetInstr h s).fc = s.fc := rfl
@[simp] theorem installResetInstr_instPc (s : State) (h : Handler) :
    (installResetInstr h s).instPc = s.instPc := rfl
@[simp] theorem installResetInstr_intLevel (s : State) (h : Handler) :
    (installResetInstr h s).intLevel = s.intLevel := rfl
@[simp] theorem installResetInstr_nmiPending (s : State) (h : Handler) :
    (installResetInstr h s).nmiPending = s.nmiPending := rfl
@[simp] theorem installResetInstr_delayedIrq (s : State) (h : Handler) :
    (installResetInstr h s).delayedIrq = s.delayedIrq := rfl
@[simp] theorem installResetInstr_runMode (s : State) (h : Handler) :
    (installResetInstr h s).runMode = s.runMode := rfl
@[simp] theorem installResetInstr_stopped (s : State) (h : Handler) :
    (installResetInstr h s).stopped = s.stopped := rfl
@[simp] theorem installResetInstr_haltPin (s : State) (h : Handler) :
    (installResetInstr h s).haltPin = s.haltPin := rfl
@[simp] theorem installResetInstr_doubleFault (s : State) (h : Handler) :
    (installResetInstr h s).doubleFault = s.doubleFault := rfl
@[simp] theorem installResetInstr_tracePending (s : State) (h : Handler) :
    (installResetInstr h s).tracePending = s.tracePending := rfl
@[simp] theorem installResetInstr_aerrAddress (s : State) (h : Handler) :
    (installResetInstr h s).aerrAddress = s.aerrAddress := rfl
@[simp] theorem installResetInstr_aerrWrite (s : State) (h : Handler) :
    (installResetInstr h s).aerrWrite = s.aerrWrite := rfl
@[simp] theorem installResetInstr_aerrInstr (s : State) (h : Handler) :
    (installResetInstr h s).aerrInstr = s.aerrInstr := rfl
@[simp] theorem installResetInstr_aerrFc (s : State) (h : Handler) :
    (installResetInstr h s).aerrFc = s.aerrFc := rfl
@[simp] theorem installResetInstr_saved (s : State) (h : Handler) :
    (installResetInstr h s).saved = s.saved := rfl
@[simp] theorem installResetInstr_cyclesTotal (s : State) (h : Handler) :
    (installResetInstr h s).cyclesTotal = s.cyclesTotal := rfl
@[simp] theorem installResetInstr_cyclesRun (s : State) (h : Handler) :
    (installResetInstr h s).cyclesRun = s.cyclesRun := rfl
@[simp] theorem installResetInstr_budget (s : State) (h : Handler) :
    (installResetInstr h s).budget = s.budget := rfl
@[simp] theorem installResetInstr_idlePc (s : State) (h : Handler) :
    (installResetInstr h s).idlePc = s.idlePc := rfl
@[simp] theorem installResetInstr_idleCycle (s : State) (h : Handler) :
    (installResetInstr h s).idleCycle = s.idleCycle := rfl
@[simp] theorem installResetInstr_idleDetected (s : State) (h : Handler) :
    (installResetInstr h s).idleDetected = s.idleDetected := rfl
@[simp] theorem installResetInstr_handlers (s : State) (h : Handler) :
    (installResetInstr h s).handlers = { s.handlers with resetInstr := h } := rfl
@[simp] theorem installResetInstr_map (s : State) (h : Handler) :
    (installResetInstr h s).map = s.map := rfl
@[simp] theorem installResetInstr_mem (s : State) (h : Handler) :
    (installResetInstr h s).mem = s.mem := rfl
@[simp] theorem installResetInstr_cfg (s : State) (h : Handler) :
    (installResetInstr h s).cfg = s.cfg := rfl
@[simp] theorem installResetInstr_draws (s : State) (h : Handler) :
    (installResetInstr h s).draws = s.draws := rfl
@[simp] theorem installResetInstr_script (s : State) (h : Handler) :
    (installResetInstr h s).script = s.script := rfl
@[simp] theorem installResetInstr_calls (s : State) (h : Handler) :
    (installResetInstr h s).calls = s.calls := rfl
@[simp] theorem installResetInstr_lastEnd (s : State) (h : Handler) :
    (installResetInstr h s).lastEnd = s.lastEnd := rfl

/-! ### installTasInstr -/

@[simp] theorem installTasInstr_d (s : State) (h : Handler) : (installTasInstr h s).d = s.d := rfl
@[simp] theorem installTasInstr_a (s : State) (h : Handler) : (installTasInstr h s).a = s.a := rfl
@[simp] theorem installTasInstr_usp (s : State) (h : Handler) :
    (installTasInstr h s).usp = s.usp := rfl
@[simp] theorem installTasInstr_ssp (s : State) (h : Handler) :
    (installTasInstr h s).ssp = s.ssp := rfl
@[simp] theorem installTasInstr_pc (s : State) (h : Handler) :
    (installTasInstr h s).pc = s.pc := rfl
@[simp] theorem installTasInstr_sr (s : State) (h : Handler) :
    (installTasInstr h s).sr = s.sr := rfl
@[simp] theorem installTasInstr_ir (s : State) (h : Handler) :
    (installTasInstr h s).ir = s.ir := rfl
@[simp] theorem installTasInstr_prefAddr (s : State) (h : Handler) :
    (installTasInstr h s).prefAddr = s.prefAddr := rfl
@[simp] theorem installTasInstr_prefData (s : State) (h : Handler) :
    (installTasInstr h s).prefData = s.prefData := rfl
@[simp] theorem installTasInstr_fc (s : State) (h : Handler) :
    (installTasInstr h s).fc = s.fc := rfl
@[simp] theorem installTasInstr_instPc (s : State) (h : Handler) :
    (installTasInstr h s).instPc = s.instPc := rfl
@[simp] theorem installTasInstr_intLevel (s : State) (h : Handler) :
    (installTasInstr h s).intLevel = s.intLevel := rfl
@[simp] theorem installTasInstr_nmiPending (s : State) (h : Handler) :
    (installTasInstr h s).nmiPending = s.nmiPending := rfl
@[simp] theorem installTasInstr_delayedIrq (s : State) (h : Handler) :
    (installTasInstr h s).delayedIrq = s.delayedIrq := rfl
@[simp] theorem installTasInstr_runMode (s : State) (h : Handler) :
    (installTasInstr h s).runMode = s.runMode := rfl
@[simp] theorem installTasInstr_stopped (s : State) (h : Handler) :
    (installTasInstr h s).stopped = s.stopped := rfl
@[simp] theorem installTasInstr_haltPin (s : State) (h : Handler) :
    (installTasInstr h s).haltPin = s.haltPin := rfl
@[simp] theorem installTasInstr_doubleFault (s : State) (h : Handler) :
    (installTasInstr h s).doubleFault = s.doubleFault := rfl
@[simp] theorem installTasInstr_tracePending (s : State) (h : Handler) :
    (installTasInstr h s).tracePending = s.tracePending := rfl
@[simp] theorem installTasInstr_aerrAddress (s : State) (h : Handler) :
    (installTasInstr h s).aerrAddress = s.aerrAddress := rfl
@[simp] theorem installTasInstr_aerrWrite (s : State) (h : Handler) :
    (installTasInstr h s).aerrWrite = s.aerrWrite := rfl
@[simp] theorem installTasInstr_aerrInstr (s : State) (h : Handler) :
    (installTasInstr h s).aerrInstr = s.aerrInstr := rfl
@[simp] theorem installTasInstr_aerrFc (s : State) (h : Handler) :
    (installTasInstr h s).aerrFc = s.aerrFc := rfl
@[simp] theorem installTasInstr_saved (s : State) (h : Handler) :
    (installTasInstr h s).saved = s.saved := rfl
@[simp] theorem installTasInstr_cyclesTotal (s : State) (h : Handler) :
    (installTasInstr h s).cyclesTotal = s.cyclesTotal := rfl
@[simp] theorem installTasInstr_cyclesRun (s : State) (h : Handler) :
    (installTasInstr h s).cyclesRun = s.cyclesRun := rfl
@[simp] theorem installTasInstr_budget (s : State) (h : Handler) :
    (installTasInstr h s).budget = s.budget := rfl
@[simp] theorem installTasInstr_idlePc (s : State) (h : Handler) :
    (installTasInstr h s).idlePc = s.idlePc := rfl
@[simp] theorem installTasInstr_idleCycle (s : State) (h : Handler) :
    (installTasInstr h s).idleCycle = s.idleCycle := rfl
@[simp] theorem installTasInstr_idleDetected (s : State) (h : Handler) :
    (installTasInstr h s).idleDetected = s.idleDetected := rfl
@[simp] theorem installTasInstr_handlers (s : State) (h : Handler) :
    (installTasInstr h s).handlers = { s.handlers with tasInstr := h } := rfl
@[simp] theorem installTasInstr_map (s : State) (h : Handler) :
    (installTasInstr h s).map = s.map := rfl
@[simp] theorem installTasInstr_mem (s : State) (h : Handler) :
    (installTasInstr h s).mem = s.mem := rfl
@[simp] theorem installTasInstr_cfg (s : State) (h : Handler) :
    (installTasInstr h s).cfg = s.cfg := rfl
@[simp] theorem installTasInstr_draws (s : State) (h : Handler) :
    (installTasInstr h s).draws = s.draws := rfl
@[simp] theorem installTasInstr_script (s : State) (h : Handler) :
    (installTasInstr h s).script = s.script := rfl
@[simp] theorem installTasInstr_calls (s : State) (h : Handler) :
    (installTasInstr h s).calls = s.calls := rfl
@[simp] theorem installTasInstr_lastEnd (s : State) (h : Handler) :
    (installTasInstr h s).lastEnd = s.lastEnd := rfl

/-! ### installFcChange -/

@[simp] theorem installFcChange_d (s : State) (h : Handler) : (installFcChange h s).d = s.d := rfl
@[simp] theorem installFcChange_a (s : State) (h : Handler) : (installFcChange h s).a = s.a := rfl
@[simp] theorem installFcChange_usp (s : State) (h : Handler) :
    (installFcChange h s).usp = s.usp := rfl
@[simp] theorem installFcChange_ssp (s : State) (h : Handler) :
    (installFcChange h s).ssp = s.ssp := rfl
@[simp] theorem installFcChange_pc (s : State) (h : Handler) :
    (installFcChange h s).pc = s.pc := rfl
@[simp] theorem installFcChange_sr (s : State) (h : Handler) :
    (installFcChange h s).sr = s.sr := rfl
@[simp] theorem installFcChange_ir (s : State) (h : Handler) :
    (installFcChange h s).ir = s.ir := rfl
@[simp] theorem installFcChange_prefAddr (s : State) (h : Handler) :
    (installFcChange h s).prefAddr = s.prefAddr := rfl
@[simp] theorem installFcChange_prefData (s : State) (h : Handler) :
    (installFcChange h s).prefData = s.prefData := rfl
@[simp] theorem installFcChange_fc (s : State) (h : Handler) :
    (installFcChange h s).fc = s.fc := rfl
@[simp] theorem installFcChange_instPc (s : State) (h : Handler) :
    (installFcChange h s).instPc = s.instPc := rfl
@[simp] theorem installFcChange_intLevel (s : State) (h : Handler) :
    (installFcChange h s).intLevel = s.intLevel := rfl
@[simp] theorem installFcChange_nmiPending (s : State) (h : Handler) :
    (installFcChange h s).nmiPending = s.nmiPending := rfl
@[simp] theorem installFcChange_delayedIrq (s : State) (h : Handler) :
    (installFcChange h s).delayedIrq = s.delayedIrq := rfl
@[simp] theorem installFcChange_runMode (s : State) (h : Handler) :
    (installFcChange h s).runMode = s.runMode := rfl
@[simp] theorem installFcChange_stopped (s : State) (h : Handler) :
    (installFcChange h s).stopped = s.stopped := rfl
@[simp] theorem installFcChange_haltPin (s : State) (h : Handler) :
    (installFcChange h s).haltPin = s.haltPin := rfl
@[simp] theorem installFcChange_doubleFault (s : State) (h : Handler) :
    (installFcChange h s).doubleFault = s.doubleFault := rfl
@[simp] theorem installFcChange_tracePending (s : State) (h : Handler) :
    (installFcChange h s).tracePending = s.tracePending := rfl
@[simp] theorem installFcChange_aerrAddress (s : State) (h : Handler) :
    (installFcChange h s).aerrAddress = s.aerrAddress := rfl
@[simp] theorem installFcChange_aerrWrite (s : State) (h : Handler) :
    (installFcChange h s).aerrWrite = s.aerrWrite := rfl
@[simp] theorem installFcChange_aerrInstr (s : State) (h : Handler) :
    (installFcChange h s).aerrInstr = s.aerrInstr := rfl
@[simp] theorem installFcChange_aerrFc (s : State) (h : Handler) :
    (installFcChange h s).aerrFc = s.aerrFc := rfl
@[simp] theorem installFcChange_saved (s : State) (h : Handler) :
    (installFcChange h s).saved = s.saved := rfl
@[simp] theorem installFcChange_cyclesTotal (s : State) (h : Handler) :
    (installFcChange h s).cyclesTotal = s.cyclesTotal := rfl
@[simp] theorem installFcChange_cyclesRun (s : State) (h : Handler) :
    (installFcChange h s).cyclesRun = s.cyclesRun := rfl
@[simp] theorem installFcChange_budget (s : State) (h : Handler) :
    (installFcChange h s).budget = s.budget := rfl
@[simp] theorem installFcChange_idlePc (s : State) (h : Handler) :
    (installFcChange h s).idlePc = s.idlePc := rfl
@[simp] theorem installFcChange_idleCycle (s : State) (h : Handler) :
    (installFcChange h s).idleCycle = s.idleCycle := rfl
@[simp] theorem installFcChange_idleDetected (s : State) (h : Handler) :
    (installFcChange h s).idleDetected = s.idleDetected := rfl
@[simp] theorem installFcChange_handlers (s : State) (h : Handler) :
    (installFcChange h s).handlers = { s.handlers with fcChange := h } := rfl
@[simp] theorem installFcChange_map (s : State) (h : Handler) :
    (installFcChange h s).map = s.map := rfl
@[simp] theorem installFcChange_mem (s : State) (h : Handler) :
    (installFcChange h s).mem = s.mem := rfl
@[simp] theorem installFcChange_cfg (s : State) (h : Handler) :
    (installFcChange h s).cfg = s.cfg := rfl
@[simp] theorem installFcChange_draws (s : State) (h : Handler) :
    (installFcChange h s).draws = s.draws := rfl
@[simp] theorem installFcChange_script (s : State) (h : Handler) :
    (installFcChange h s).script = s.script := rfl
@[simp] theorem installFcChange_calls (s : State) (h : Handler) :
    (installFcChange h s).calls = s.calls := rfl
@[simp] theorem installFcChange_lastEnd (s : State) (h : Handler) :
    (installFcChange h s).lastEnd = s.lastEnd := rfl

/-! ### setActiveSp -/

@[simp] theorem State.setActiveSp_d (s : State) (v : Long) :
    (s.setActiveSp v).d = s.d := by unfold State.setActiveSp; split <;> rfl
@[simp] theorem State.setActiveSp_a (s : State) (v : Long) :
    (s.setActiveSp v).a = s.a := by unfold State.setActiveSp; split <;> rfl
@[simp] theorem State.setActiveSp_usp (s : State) (v : Long) :
    (s.setActiveSp v).usp = if s.flagS then s.usp else v := by unfold State.setActiveSp; split <;> rfl
@[simp] theorem State.setActiveSp_ssp (s : State) (v : Long) :
    (s.setActiveSp v).ssp = if s.flagS then v else s.ssp := by unfold State.setActiveSp; split <;> rfl
@[simp] theorem State.setActiveSp_pc (s : State) (v : Long) :
    (s.setActiveSp v).pc = s.pc := by unfold State.setActiveSp; split <;> rfl
@[simp] theorem State.setActiveSp_sr (s : State) (v : Long) :
    (s.setActiveSp v).sr = s.sr := by unfold State.setActiveSp; split <;> rfl
@[simp] theorem State.setActiveSp_ir (s : State) (v : Long) :
    (s.setActiveSp v).ir = s.ir := by unfold State.setActiveSp; split <;> rfl
@[simp] theorem State.setActiveSp_prefAddr (s : State) (v : Long) :
    (s.setActiveSp v).prefAddr = s.prefAddr := by unfold State.setActiveSp; split <;> rfl
@[simp] theorem State.setActiveSp_prefData (s : State) (v : Long) :
    (s.setActiveSp v).prefData = s.prefData := by unfold State.setActiveSp; split <;> rfl
@[simp] theorem State.setActiveSp_fc (s : State) (v : Long) :
    (s.setActiveSp v).fc = s.fc := by unfold State.setActiveSp; split <;> rfl
@[simp] theorem State.setActiveSp_instPc (s : State) (v : Long) :
    (s.setActiveSp v).instPc = s.instPc := by unfold State.setActiveSp; split <;> rfl
@[simp] theorem State.setActiveSp_intLevel (s : State) (v : Long) :
    (s.setActiveSp v).intLevel = s.intLevel := by unfold State.setActiveSp; split <;> rfl
@[simp] theorem State.setActiveSp_nmiPending (s : State) (v : Long) :
    (s.setActiveSp v).nmiPending = s.nmiPending := by unfold State.setActiveSp; split <;> rfl
@[simp] theorem State.setActiveSp_delayedIrq (s : State) (v : Long) :
    (s.setActiveSp v).delayedIrq = s.delayedIrq := by unfold State.setActiveSp; split <;> rfl
@[simp] theorem State.setActiveSp_runMode (s : State) (v : Long) :
    (s.setActiveSp v).runMode = s.runMode := by unfold State.setActiveSp; split <;> rfl
@[simp] theorem State.setActiveSp_stopped (s : State) (v : Long) :
    (s.setActiveSp v).stopped = s.stopped := by unfold State.setActiveSp; split <;> rfl
@[simp] theorem State.setActiveSp_haltPin (s : State) (v : Long) :
    (s.setActiveSp v).haltPin = s.haltPin := by unfold State.setActiveSp; split <;> rfl
@[simp] theorem State.setActiveSp_doubleFault (s : State) (v : Long) :
    (s.setActiveSp v).doubleFault = s.doubleFault := by unfold State.setActiveSp; split <;> rfl
@[simp] theorem State.setActiveSp_tracePending (s : State) (v : Long) :
    (s.setActiveSp v).tracePending = s.tracePending := by unfold State.setActiveSp; split <;> rfl
@[simp] theorem State.setActiveSp_aerrAddress (s : State) (v : Long) :
    (s.setActiveSp v).aerrAddress = s.aerrAddress := by unfold State.setActiveSp; split <;> rfl
@[simp] theorem State.setActiveSp_aerrWrite (s : State) (v : Long) :
    (s.setActiveSp v).aerrWrite = s.aerrWrite := by unfold State.setActiveSp; split <;> rfl
@[simp] theorem State.setActiveSp_aerrInstr (s : State) (v : Long) :
    (s.setActiveSp v).aerrInstr = s.aerrInstr := by unfold State.setActiveSp; split <;> rfl
@[simp] theorem State.setActiveSp_aerrFc (s : State) (v : Long) :
    (s.setActiveSp v).aerrFc = s.aerrFc := by unfold State.setActiveSp; split <;> rfl
@[simp] theorem State.setActiveSp_saved (s : State) (v : Long) :
    (s.setActiveSp v).saved = s.saved := by unfold State.setActiveSp; split <;> rfl
@[simp] theorem State.setActiveSp_cyclesTotal (s : State) (v : Long) :
    (s.setActiveSp v).cyclesTotal = s.cyclesTotal := by unfold State.setActiveSp; split <;> rfl
@[simp] theorem State.setActiveSp_cyclesRun (s : State) (v : Long) :
    (s.setActiveSp v).cyclesRun = s.cyclesRun := by unfold State.setActiveSp; split <;> rfl
@[simp] theorem State.setActiveSp_budget (s : State) (v : Long) :
    (s.setActiveSp v).budget = s.budget := by unfold State.setActiveSp; split <;> rfl
@[simp] theorem State.setActiveSp_idlePc (s : State) (v : Long) :
    (s.setActiveSp v).idlePc = s.idlePc := by unfold State.setActiveSp; split <;> rfl
@[simp] theorem State.setActiveSp_idleCycle (s : State) (v : Long) :
    (s.setActiveSp v).idleCycle = s.idleCycle := by unfold State.setActiveSp; split <;> rfl
@[simp] theorem State.setActiveSp_idleDetected (s : State) (v : Long) :
    (s.setActiveSp v).idleDetected = s.idleDetected := by unfold State.setActiveSp; split <;> rfl
@[simp] theorem State.setActiveSp_handlers (s : State) (v : Long) :
    (s.setActiveSp v).handlers = s.handlers := by unfold State.setActiveSp; split <;> rfl
@[simp] theorem State.setActiveSp_map (s : State) (v : Long) :
    (s.setActiveSp v).map = s.map := by unfold State.setActiveSp; split <;> rfl
@[simp] theorem State.setActiveSp_mem (s : State) (v : Long) :
    (s.setActiveSp v).mem = s.mem := by unfold State.setActiveSp; split <;> rfl
@[simp] theorem State.setActiveSp_cfg (s : State) (v : Long) :
    (s.setActiveSp v).cfg = s.cfg := by unfold State.setActiveSp; split <;> rfl
@[simp] theorem State.setActiveSp_draws (s : State) (v : Long) :
    (s.setActiveSp v).draws = s.draws := by unfold State.setActiveSp; split <;> rfl
@[simp] theorem State.setActiveSp_script (s : State) (v : Long) :
    (s.setActiveSp v).script = s.script := by unfold State.setActiveSp; split <;> rfl
@[simp] theorem State.setActiveSp_calls (s : State) (v : Long) :
    (s.setActiveSp v).calls = s.calls := by unfold State.setActiveSp; split <;> rfl
@[simp] theorem State.setActiveSp_lastEnd (s : State) (v : Long) :
    (s.setActiveSp v).lastEnd = s.lastEnd := by unfold State.setActiveSp; split <;> rfl

/-! ### writeA -/

@[simp] theorem State.writeA_d (s : State) (n : Reg) (v : Long) :
    (s.writeA n v).d = s.d := by unfold State.writeA; split <;> simp
@[simp] theorem State.writeA_pc (s : State) (n : Reg) (v : Long) :
    (s.writeA n v).pc = s.pc := by unfold State.writeA; split <;> simp
@[simp] theorem State.writeA_sr (s : State) (n : Reg) (v : Long) :
    (s.writeA n v).sr = s.sr := by unfold State.writeA; split <;> simp
@[simp] theorem State.writeA_ir (s : State) (n : Reg) (v : Long) :
    (s.writeA n v).ir = s.ir := by unfold State.writeA; split <;> simp
@[simp] theorem State.writeA_prefAddr (s : State) (n : Reg) (v : Long) :
    (s.writeA n v).prefAddr = s.prefAddr := by unfold State.writeA; split <;> simp
@[simp] theorem State.writeA_prefData (s : State) (n : Reg) (v : Long) :
    (s.writeA n v).prefData = s.prefData := by unfold State.writeA; split <;> simp
@[simp] theorem State.writeA_fc (s : State) (n : Reg) (v : Long) :
    (s.writeA n v).fc = s.fc := by unfold State.writeA; split <;> simp
@[simp] theorem State.writeA_instPc (s : State) (n : Reg) (v : Long) :
    (s.writeA n v).instPc = s.instPc := by unfold State.writeA; split <;> simp
@[simp] theorem State.writeA_intLevel (s : State) (n : Reg) (v : Long) :
    (s.writeA n v).intLevel = s.intLevel := by unfold State.writeA; split <;> simp
@[simp] theorem State.writeA_nmiPending (s : State) (n : Reg) (v : Long) :
    (s.writeA n v).nmiPending = s.nmiPending := by unfold State.writeA; split <;> simp
@[simp] theorem State.writeA_delayedIrq (s : State) (n : Reg) (v : Long) :
    (s.writeA n v).delayedIrq = s.delayedIrq := by unfold State.writeA; split <;> simp
@[simp] theorem State.writeA_runMode (s : State) (n : Reg) (v : Long) :
    (s.writeA n v).runMode = s.runMode := by unfold State.writeA; split <;> simp
@[simp] theorem State.writeA_stopped (s : State) (n : Reg) (v : Long) :
    (s.writeA n v).stopped = s.stopped := by unfold State.writeA; split <;> simp
@[simp] theorem State.writeA_haltPin (s : State) (n : Reg) (v : Long) :
    (s.writeA n v).haltPin = s.haltPin := by unfold State.writeA; split <;> simp
@[simp] theorem State.writeA_doubleFault (s : State) (n : Reg) (v : Long) :
    (s.writeA n v).doubleFault = s.doubleFault := by unfold State.writeA; split <;> simp
@[simp] theorem State.writeA_tracePending (s : State) (n : Reg) (v : Long) :
    (s.writeA n v).tracePending = s.tracePending := by unfold State.writeA; split <;> simp
@[simp] theorem State.writeA_aerrAddress (s : State) (n : Reg) (v : Long) :
    (s.writeA n v).aerrAddress = s.aerrAddress := by unfold State.writeA; split <;> simp
@[simp] theorem State.writeA_aerrWrite (s : State) (n : Reg) (v : Long) :
    (s.writeA n v).aerrWrite = s.aerrWrite := by unfold State.writeA; split <;> simp
@[simp] theorem State.writeA_aerrInstr (s : State) (n : Reg) (v : Long) :
    (s.writeA n v).aerrInstr = s.aerrInstr := by unfold State.writeA; split <;> simp
@[simp] theorem State.writeA_aerrFc (s : State) (n : Reg) (v : Long) :
    (s.writeA n v).aerrFc = s.aerrFc := by unfold State.writeA; split <;> simp
@[simp] theorem State.writeA_saved (s : State) (n : Reg) (v : Long) :
    (s.writeA n v).saved = s.saved := by unfold State.writeA; split <;> simp
@[simp] theorem State.writeA_cyclesTotal (s : State) (n : Reg) (v : Long) :
    (s.writeA n v).cyclesTotal = s.cyclesTotal := by unfold State.writeA; split <;> simp
@[simp] theorem State.writeA_cyclesRun (s : State) (n : Reg) (v : Long) :
    (s.writeA n v).cyclesRun = s.cyclesRun := by unfold State.writeA; split <;> simp
@[simp] theorem State.writeA_budget (s : State) (n : Reg) (v : Long) :
    (s.writeA n v).budget = s.budget := by unfold State.writeA; split <;> simp
@[simp] theorem State.writeA_idlePc (s : State) (n : Reg) (v : Long) :
    (s.writeA n v).idlePc = s.idlePc := by unfold State.writeA; split <;> simp
@[simp] theorem State.writeA_idleCycle (s : State) (n : Reg) (v : Long) :
    (s.writeA n v).idleCycle = s.idleCycle := by unfold State.writeA; split <;> simp
@[simp] theorem State.writeA_idleDetected (s : State) (n : Reg) (v : Long) :
    (s.writeA n v).idleDetected = s.idleDetected := by unfold State.writeA; split <;> simp
@[simp] theorem State.writeA_handlers (s : State) (n : Reg) (v : Long) :
    (s.writeA n v).handlers = s.handlers := by unfold State.writeA; split <;> simp
@[simp] theorem State.writeA_map (s : State) (n : Reg) (v : Long) :
    (s.writeA n v).map = s.map := by unfold State.writeA; split <;> simp
@[simp] theorem State.writeA_mem (s : State) (n : Reg) (v : Long) :
    (s.writeA n v).mem = s.mem := by unfold State.writeA; split <;> simp
@[simp] theorem State.writeA_cfg (s : State) (n : Reg) (v : Long) :
    (s.writeA n v).cfg = s.cfg := by unfold State.writeA; split <;> simp
@[simp] theorem State.writeA_draws (s : State) (n : Reg) (v : Long) :
    (s.writeA n v).draws = s.draws := by unfold State.writeA; split <;> simp
@[simp] theorem State.writeA_script (s : State) (n : Reg) (v : Long) :
    (s.writeA n v).script = s.script := by unfold State.writeA; split <;> simp
@[simp] theorem State.writeA_calls (s : State) (n : Reg) (v : Long) :
    (s.writeA n v).calls = s.calls := by unfold State.writeA; split <;> simp
@[simp] theorem State.writeA_lastEnd (s : State) (n : Reg) (v : Long) :
    (s.writeA n v).lastEnd = s.lastEnd := by unfold State.writeA; split <;> simp

/-! ### pokeByte -/

@[simp] theorem pokeByte_d (s : State) (b : Addr) (v : Byte) :
    (pokeByte b v s).d = s.d := by unfold pokeByte; split <;> rfl
@[simp] theorem pokeByte_a (s : State) (b : Addr) (v : Byte) :
    (pokeByte b v s).a = s.a := by unfold pokeByte; split <;> rfl
@[simp] theorem pokeByte_usp (s : State) (b : Addr) (v : Byte) :
    (pokeByte b v s).usp = s.usp := by unfold pokeByte; split <;> rfl
@[simp] theorem pokeByte_ssp (s : State) (b : Addr) (v : Byte) :
    (pokeByte b v s).ssp = s.ssp := by unfold pokeByte; split <;> rfl
@[simp] theorem pokeByte_pc (s : State) (b : Addr) (v : Byte) :
    (pokeByte b v s).pc = s.pc := by unfold pokeByte; split <;> rfl
@[simp] theorem pokeByte_sr (s : State) (b : Addr) (v : Byte) :
    (pokeByte b v s).sr = s.sr := by unfold pokeByte; split <;> rfl
@[simp] theorem pokeByte_ir (s : State) (b : Addr) (v : Byte) :
    (pokeByte b v s).ir = s.ir := by unfold pokeByte; split <;> rfl
@[simp] theorem pokeByte_prefAddr (s : State) (b : Addr) (v : Byte) :
    (pokeByte b v s).prefAddr = s.prefAddr := by unfold pokeByte; split <;> rfl
@[simp] theorem pokeByte_prefData (s : State) (b : Addr) (v : Byte) :
    (pokeByte b v s).prefData = s.prefData := by unfold pokeByte; split <;> rfl
@[simp] theorem pokeByte_fc (s : State) (b : Addr) (v : Byte) :
    (pokeByte b v s).fc = s.fc := by unfold pokeByte; split <;> rfl
@[simp] theorem pokeByte_instPc (s : State) (b : Addr) (v : Byte) :
    (pokeByte b v s).instPc = s.instPc := by unfold pokeByte; split <;> rfl
@[simp] theorem pokeByte_intLevel (s : State) (b : Addr) (v : Byte) :
    (pokeByte b v s).intLevel = s.intLevel := by unfold pokeByte; split <;> rfl
@[simp] theorem pokeByte_nmiPending (s : State) (b : Addr) (v : Byte) :
    (pokeByte b v s).nmiPending = s.nmiPending := by unfold pokeByte; split <;> rfl
@[simp] theorem pokeByte_delayedIrq (s : State) (b : Addr) (v : Byte) :
    (pokeByte b v s).delayedIrq = s.delayedIrq := by unfold pokeByte; split <;> rfl
@[simp] theorem pokeByte_runMode (s : State) (b : Addr) (v : Byte) :
    (pokeByte b v s).runMode = s.runMode := by unfold pokeByte; split <;> rfl
@[simp] theorem pokeByte_stopped (s : State) (b : Addr) (v : Byte) :
    (pokeByte b v s).stopped = s.stopped := by unfold pokeByte; split <;> rfl
@[simp] theorem pokeByte_haltPin (s : State) (b : Addr) (v : Byte) :
    (pokeByte b v s).haltPin = s.haltPin := by unfold pokeByte; split <;> rfl
@[simp] theorem pokeByte_doubleFault (s : State) (b : Addr) (v : Byte) :
    (pokeByte b v s).doubleFault = s.doubleFault := by unfold pokeByte; split <;> rfl
@[simp] theorem pokeByte_tracePending (s : State) (b : Addr) (v : Byte) :
    (pokeByte b v s).tracePending = s.tracePending := by unfold pokeByte; split <;> rfl
@[simp] theorem pokeByte_aerrAddress (s : State) (b : Addr) (v : Byte) :
    (pokeByte b v s).aerrAddress = s.aerrAddress := by unfold pokeByte; split <;> rfl
@[simp] theorem pokeByte_aerrWrite (s : State) (b : Addr) (v : Byte) :
    (pokeByte b v s).aerrWrite = s.aerrWrite := by unfold pokeByte; split <;> rfl
@[simp] theorem pokeByte_aerrInstr (s : State) (b : Addr) (v : Byte) :
    (pokeByte b v s).aerrInstr = s.aerrInstr := by unfold pokeByte; split <;> rfl
@[simp] theorem pokeByte_aerrFc (s : State) (b : Addr) (v : Byte) :
    (pokeByte b v s).aerrFc = s.aerrFc := by unfold pokeByte; split <;> rfl
@[simp] theorem pokeByte_saved (s : State) (b : Addr) (v : Byte) :
    (pokeByte b v s).saved = s.saved := by unfold pokeByte; split <;> rfl
@[simp] theorem pokeByte_cyclesTotal (s : State) (b : Addr) (v : Byte) :
    (pokeByte b v s).cyclesTotal = s.cyclesTotal := by unfold pokeByte; split <;> rfl
@[simp] theorem pokeByte_cyclesRun (s : State) (b : Addr) (v : Byte) :
    (pokeByte b v s).cyclesRun = s.cyclesRun := by unfold pokeByte; split <;> rfl
@[simp] theorem pokeByte_budget (s : State) (b : Addr) (v : Byte) :
    (pokeByte b v s).budget = s.budget := by unfold pokeByte; split <;> rfl
@[simp] theorem pokeByte_idlePc (s : State) (b : Addr) (v : Byte) :
    (pokeByte b v s).idlePc = s.idlePc := by unfold pokeByte; split <;> rfl
@[simp] theorem pokeByte_idleCycle (s : State) (b : Addr) (v : Byte) :
    (pokeByte b v s).idleCycle = s.idleCycle := by unfold pokeByte; split <;> rfl
@[simp] theorem pokeByte_idleDetected (s : State) (b : Addr) (v : Byte) :
    (pokeByte b v s).idleDetected = s.idleDetected := by unfold pokeByte; split <;> rfl
@[simp] theorem pokeByte_handlers (s : State) (b : Addr) (v : Byte) :
    (pokeByte b v s).handlers = s.handlers := by unfold pokeByte; split <;> rfl
@[simp] theorem pokeByte_map (s : State) (b : Addr) (v : Byte) :
    (pokeByte b v s).map = s.map := by unfold pokeByte; split <;> rfl
@[simp] theorem pokeByte_cfg (s : State) (b : Addr) (v : Byte) :
    (pokeByte b v s).cfg = s.cfg := by unfold pokeByte; split <;> rfl
@[simp] theorem pokeByte_draws (s : State) (b : Addr) (v : Byte) :
    (pokeByte b v s).draws = s.draws := by unfold pokeByte; split <;> rfl
@[simp] theorem pokeByte_script (s : State) (b : Addr) (v : Byte) :
    (pokeByte b v s).script = s.script := by unfold pokeByte; split <;> rfl
@[simp] theorem pokeByte_calls (s : State) (b : Addr) (v : Byte) :
    (pokeByte b v s).calls = s.calls := by unfold pokeByte; split <;> rfl
@[simp] theorem pokeByte_lastEnd (s : State) (b : Addr) (v : Byte) :
    (pokeByte b v s).lastEnd = s.lastEnd := by unfold pokeByte; split <;> rfl

end Sys2Proof.Machine
end

