-- ==== Sys2Proof/Tests/Slice0.lean ====
section
/-!
SUPPORT. Tests. Ill-formed terms that WellFormed refuses; opcode words written out from
spec/opcode_table.json; single steps with the results of spec/95_test_vectors.md; and, for each
statement with hypotheses, operands and a state that meet them.
-/

namespace Sys2Proof.Tests

-- One theorem after the other: each is a kernel evaluation that waits for those before it.
set_option Elab.async false

open Sys2Proof.Machine

/-! ### Helpers -/

/-- The state S of spec/95_test_vectors.md, without its vectors and with all memory present. -/
def start : State := { State.reset with pc := 0x400, ssp := 0x1000, cyclesTotal := 0 }

/-- A byte, a word or a long in memory. -/
def putB (a : Addr) (v : Byte) (s : State) : State := pokeBytes a [v] s

def putW (a : Addr) (v : Word) (s : State) : State :=
  pokeBytes a [v.extractLsb' 8 8, v.extractLsb' 0 8] s

def putL (a : Addr) (v : Long) (s : State) : State :=
  putW (a + 2) (v.extractLsb' 0 16) (putW a (v.extractLsb' 16 16) s)

/-- Words from the reset pc of S on. -/
def program (ws : List Word) (s : State) : State :=
  (ws.zipIdx).foldl (fun t p => putW (0x400 + BitVec.ofNat 24 (2 * p.2)) p.1 t) s

/-- A condition code, by its mask in SR. -/
def setFlagBit (mask v : Word) (s : State) : State := { s with sr := (s.sr &&& ~~~mask) ||| v }

/-- No FC emulation, so that no access reads a free condition code. -/
def noFc (s : State) : State := { s with cfg := { s.cfg with fcEmulation := false } }

/-- The outcome is a next state with a property. -/
def ends (p : State → Bool) (o : Host.Outcome State Fault Refusal) : Bool :=
  match o with
  | .next t => p t
  | _ => false

/-- The body ends well, in a state with a property. -/
def endsWell {α : Type} (p : State → Bool) (r : EStateM.Result Stop State α) : Bool :=
  match r with
  | .ok _ t => p t
  | .error _ _ => false

/-- The body ends in an address error. -/
def endsOdd {α : Type} (r : EStateM.Result Stop State α) : Bool :=
  match r with
  | .error .addressError _ => true
  | _ => false

/-- One step, then a check. -/
def after (s : State) (p : State → Bool) : Bool := ends p (step s)

/-- Every word decodes to its instruction, and that is well-formed. -/
def reads (l : List (Word × Instr)) : Bool :=
  l.all fun p => (decode p.1).toOption == some p.2 && p.2.wf

/-! ### WellFormed refuses -/

/-- Every term of a list is ill-formed. -/
def refused (l : List Instr) : Bool := l.all fun i => !i.wf

theorem test_wf_refuses_1 : refused [
    .ori .w (.areg 0), .andi .w (.areg 0), .subi .w (.areg 0), .addi .w (.areg 0),
    .eori .w (.areg 0), .cmpi .w (.areg 0), .btstS .imm, .bchgS (.areg 0), .bclrS (.areg 0),
    .bsetS (.areg 0), .btstD 1 (.areg 3), .bchgD 1 (.areg 0), .bclrD 1 (.areg 0),
    .bsetD 1 (.areg 0), .moveB (.areg 3) (.ind 1), .moveB (.ind 1) (.areg 0),
    .moveW (.ind 1) (.areg 0), .moveL (.ind 1) (.areg 0), .moveFromSr (.areg 0),
    .moveToCcr (.areg 3), .moveToSr (.areg 3), .negx .w (.areg 0), .clr .w (.areg 0),
    .neg .w (.areg 0)] = true := by
  decide

theorem test_wf_refuses_2 : refused [
    .notEa .w (.areg 0), .tst .w (.areg 0), .nbcd (.areg 0), .pea (.postInc 1),
    .movemWR2M (.postInc 5), .movemLR2M (.postInc 5), .tas (.areg 0), .movemWM2R (.preDec 5),
    .movemLM2R (.preDec 5), .chk 1 (.areg 3), .lea 1 (.postInc 1), .jsr (.postInc 1),
    .jmp (.postInc 1), .addqB 1 (.areg 0), .addqWL 1 .w .pcDisp, .addqWL 1 .b (.ind 1),
    .subqB 1 (.areg 0), .subqWL 1 .w .pcDisp, .subqWL 1 .b (.ind 1), .scc .eq (.areg 0),
    .bcc .t 4, .bcc .f 4, .subEaDB 1 (.areg 3), .subEaDWL 1 .b (.ind 1)] = true := by
  decide

theorem test_wf_refuses_3 : refused [
    .subDEa 1 .w (.dreg 2), .addEaDB 1 (.areg 3), .addEaDWL 1 .b (.ind 1), .addDEa 1 .w (.dreg 2),
    .orEaD 1 .w (.areg 3), .orDEa 1 .w (.dreg 2), .divu 1 (.areg 3), .divs 1 (.areg 3),
    .cmpB 1 (.areg 3), .cmpWL 1 .b (.ind 1), .eor 1 .w (.areg 0), .andEaD 1 .w (.areg 3),
    .andDEa 1 .w (.dreg 2), .mulu 1 (.areg 3), .muls 1 (.areg 3), .asrM (.dreg 2),
    .aslM (.dreg 2), .lsrM (.dreg 2), .lslM (.dreg 2), .roxrM (.dreg 2), .roxlM (.dreg 2),
    .rorM (.dreg 2), .rolM (.dreg 2)] = true := by
  decide

/-- The decoder refuses the words that are no row's by name (R171). -/
theorem test_decode_refuses :
    [0x4E7A, 0x4AFA, 0x00C0, 0x1008, 0x003D, 0x4E74, 0x5008, 0x4848, 0x0848].all
      (fun w : Word => (decode w).toOption == none) = true := by
  decide +kernel

/-! ### Opcode words, bit by bit from the encodings of spec/opcode_table.json -/

theorem test_decode_line_0000 : reads [
    (0b0000000000111100, .oriCcr), (0b0000000001111100, .oriSr), (0b0000001000111100, .andiCcr),
    (0b0000001001111100, .andiSr), (0b0000101000111100, .eoriCcr), (0b0000101001111100, .eoriSr),
    (0b00000000_01_101_011, .ori .w (.disp 3)), (0b00000010_10_111_000, .andi .l .absW),
    (0b00000100_00_100_110, .subi .b (.preDec 6)), (0b00000110_01_000_001, .addi .w (.dreg 1)),
    (0b00001010_10_111_001, .eori .l .absL), (0b00001100_00_101_011, .cmpi .b (.disp 3)),
    (0b0000100000_111_011, .btstS .pcIndex), (0b0000100001_111_000, .bchgS .absW),
    (0b0000100010_100_110, .bclrS (.preDec 6)), (0b0000100011_000_001, .bsetS (.dreg 1)),
    (0b0000_110_100_110_101, .btstD 6 (.index 5)), (0b0000_011_101_111_001, .bchgD 3 .absL),
    (0b0000_000_110_101_011, .bclrD 0 (.disp 3)), (0b0000_101_111_111_000, .bsetD 5 .absW),
    (0b0000_010_100001_011, .movepWM2R 2 3), (0b0000_111_101001_000, .movepLM2R 7 0),
    (0b0000_100_110001_101, .movepWR2M 4 5), (0b0000_001_111001_010, .movepLR2M 1 2)] = true := by
  decide +kernel

theorem test_decode_line_0001 : reads [
    (0b0001_110_100_111_100, .moveB .imm (.preDec 6))] = true := by
  decide +kernel

theorem test_decode_line_0011 : reads [
    (0b0011_001_000_001_100, .moveW (.areg 4) (.dreg 1)),
    (0b0011_101_001_111_010, .moveaW .pcDisp 5)] = true := by
  decide +kernel

theorem test_decode_line_0010 : reads [
    (0b0010_001_111_100_001, .moveL (.preDec 1) .absL),
    (0b0010_010_001_000_110, .moveaL (.dreg 6) 2)] = true := by
  decide +kernel

theorem test_decode_line_0100 : reads [
    (0b0100000011_101_011, .moveFromSr (.disp 3)),
    (0b0100010011_011_010, .moveToCcr (.postInc 2)), (0b0100011011_000_011, .moveToSr (.dreg 3)),
    (0b01000000_00_111_000, .negx .b .absW), (0b01000010_01_100_110, .clr .w (.preDec 6)),
    (0b01000100_10_000_001, .neg .l (.dreg 1)), (0b01000110_00_111_001, .notEa .b .absL),
    (0b01001010_01_101_011, .tst .w (.disp 3)), (0b0100100000_111_000, .nbcd .absW),
    (0b0100100001000_101, .swap 5), (0b0100100001_111_011, .pea .pcIndex),
    (0b0100100010000_111, .extW 7), (0b0100100011000_100, .extL 4),
    (0b0100100010_100_111, .movemWR2M (.preDec 7)), (0b0100100011_101_101, .movemLR2M (.disp 5)),
    (0b0100101011_100_110, .tas (.preDec 6)), (0b0100101011111100, .illegal),
    (0b0100110010_011_110, .movemWM2R (.postInc 6)), (0b0100110011_111_010, .movemLM2R .pcDisp),
    (0b0100_110_110_110_101, .chk 6 (.index 5)), (0b0100_011_111_010_011, .lea 3 (.ind 3)),
    (0b010011100100_1011, .trap 11), (0b0100111001010_110, .link 6),
    (0b0100111001011_011, .unlk 3), (0b0100111001100_000, .moveToUsp 0),
    (0b0100111001101_101, .moveFromUsp 5), (0b0100111001110000, .reset),
    (0b0100111001110001, .nop), (0b0100111001110010, .stop), (0b0100111001110011, .rte),
    (0b0100111001110101, .rts), (0b0100111001110110, .trapv), (0b0100111001110111, .rtr),
    (0b0100111010_111_001, .jsr .absL), (0b0100111011_101_010, .jmp (.disp 2))] = true := by
  decide +kernel

theorem test_decode_line_0101 : reads [
    (0b0101_111_000_000_001, .addqB 7 (.dreg 1)),
    (0b0101_100_0_01_001_010, .addqWL 4 .w (.areg 2)), (0b0101_001_100_111_001, .subqB 1 .absL),
    (0b0101_110_1_01_011_100, .subqWL 6 .w (.postInc 4)), (0b0101_1101_11001_011, .dbcc .lt 3),
    (0b0101_0010_11_101_011, .scc .hi (.disp 3))] = true := by
  decide +kernel

theorem test_decode_line_0110 : reads [
    (0b01100000_01000011, .bra 0x43), (0b01100001_01101000, .bsr 0x68),
    (0b0110_1011_10001101, .bcc .mi 0x8D)] = true := by
  decide +kernel

theorem test_decode_line_0111 : reads [
    (0b0111_011_0_10110010, .moveq 3 0xB2)] = true := by
  decide +kernel

theorem test_decode_line_1001 : reads [
    (0b1001_000_000_111_100, .subEaDB 0 .imm),
    (0b1001_101_0_01_001_100, .subEaDWL 5 .w (.areg 4)),
    (0b1001_010_1_10_011_001, .subDEa 2 .l (.postInc 1)),
    (0b1001_111_011_100_001, .subaW 7 (.preDec 1)), (0b1001_100_111_111_010, .subaL 4 .pcDisp),
    (0b1001_001_1_10_000_010, .subxR 1 .l 2), (0b1001_110_1_00_001_111, .subxM 6 .b 7)] = true := by
  decide +kernel

theorem test_decode_line_1101 : reads [
    (0b1101_011_000_011_010, .addEaDB 3 (.postInc 2)),
    (0b1101_000_0_10_000_110, .addEaDWL 0 .l (.dreg 6)),
    (0b1101_101_1_00_111_001, .addDEa 5 .b .absL), (0b1101_010_011_001_100, .addaW 2 (.areg 4)),
    (0b1101_111_111_100_001, .addaL 7 (.preDec 1)), (0b1101_100_1_00_000_101, .addxR 4 .b 5),
    (0b1101_001_1_01_001_010, .addxM 1 .w 2)] = true := by
  decide +kernel

theorem test_decode_line_1000 : reads [
    (0b1000_110_0_10_000_011, .orEaD 6 .l (.dreg 3)),
    (0b1000_011_1_00_010_100, .orDEa 3 .b (.ind 4)), (0b1000_000_011_110_101, .divu 0 (.index 5)),
    (0b1000_101_111_111_100, .divs 5 .imm), (0b1000_010_100000_011, .sbcdR 2 3),
    (0b1000_111_100001_000, .sbcdM 7 0)] = true := by
  decide +kernel

theorem test_decode_line_1011 : reads [
    (0b1011_100_000_011_010, .cmpB 4 (.postInc 2)),
    (0b1011_001_0_01_111_010, .cmpWL 1 .w .pcDisp), (0b1011_110_011_000_110, .cmpaW 6 (.dreg 6)),
    (0b1011_011_111_001_100, .cmpaL 3 (.areg 4)), (0b1011_000_1_00_111_000, .eor 0 .b .absW),
    (0b1011_101_1_01_001_110, .cmpm 5 .w 6)] = true := by
  decide +kernel

theorem test_decode_line_1100 : reads [
    (0b1100_010_0_10_000_011, .andEaD 2 .l (.dreg 3)),
    (0b1100_111_1_00_110_010, .andDEa 7 .b (.index 2)),
    (0b1100_100_011_110_101, .mulu 4 (.index 5)), (0b1100_001_111_111_100, .muls 1 .imm),
    (0b1100_110_100000_111, .abcdR 6 7), (0b1100_011_100001_100, .abcdM 3 4),
    (0b1100_000_101000_001, .exgDD 0 1), (0b1100_101_101001_110, .exgAA 5 6),
    (0b1100_010_110001_011, .exgDA 2 3)] = true := by
  decide +kernel

theorem test_decode_line_1110 : reads [
    (0b1110_010_0_10_0_00_000, .asrR (.imm 2) .l 0), (0b1110000011_011_001, .asrM (.postInc 1)),
    (0b1110_000_1_01_0_00_010, .aslR (.imm 0) .w 2), (0b1110000111_111_001, .aslM .absL),
    (0b1110_110_0_00_0_01_100, .lsrR (.imm 6) .b 4), (0b1110001011_010_100, .lsrM (.ind 4)),
    (0b1110_100_1_10_0_01_110, .lslR (.imm 4) .l 6), (0b1110001111_110_010, .lslM (.index 2)),
    (0b1110_010_0_01_0_10_000, .roxrR (.imm 2) .w 0), (0b1110010011_011_001, .roxrM (.postInc 1)),
    (0b1110_000_1_00_0_10_010, .roxlR (.imm 0) .b 2), (0b1110010111_111_001, .roxlM .absL),
    (0b1110_110_0_10_0_11_100, .rorR (.imm 6) .l 4), (0b1110011011_010_100, .rorM (.ind 4)),
    (0b1110_100_1_01_0_11_110, .rolR (.imm 4) .w 6), (0b1110011111_110_010, .rolM (.index 2))] = true := by
  decide +kernel

theorem test_decode_line_1010 : reads [
    (0b1010_010110100011, .lineA 0x5A3)] = true := by
  decide +kernel

theorem test_decode_line_1111 : reads [
    (0b1111_010110100011, .lineF 0x5A3)] = true := by
  decide +kernel

/-! ### Single steps -/

/-- SY2 of spec/95_test_vectors.md: ORI #$10,CCR. -/
theorem test_oriCcr_SY2 :
    after (program [0x003C, 0x0010] <| setReg .sr 0x2700 <| start)
    (fun s => s.sr.extractLsb' 0 5 == 0x10 && s.cyclesTotal == 20) = true := by
  decide +kernel

/-- SY4 of spec/95_test_vectors.md: ORI #$FF,CCR. -/
theorem test_oriCcr_SY4 :
    after (program [0x003C, 0x00FF] <| setReg .sr 0x2700 <| start)
    (fun s => s.sr == 0x271F && s.cyclesTotal == 20) = true := by
  decide +kernel

/-- SY10 of spec/95_test_vectors.md: ORI #$0700,SR. -/
theorem test_oriSr_SY10 :
    after (program [0x007C, 0x0700] <| setReg .sr 0x2000 <| start)
    (fun s => s.sr == 0x2700 && s.cyclesTotal == 20) = true := by
  decide +kernel

/-- SY1 of spec/95_test_vectors.md: ANDI #$FE,CCR. -/
theorem test_andiCcr_SY1 :
    after (program [0x023C, 0x00FE] <| setReg .sr 0x271F <| start)
    (fun s => s.pc == 0x404 && s.sr.extractLsb' 0 5 == 0x1E &&
      s.cyclesTotal == 20) = true := by
  decide +kernel

/-- SY9 of spec/95_test_vectors.md: ANDI #$F8FF,SR. -/
theorem test_andiSr_SY9 :
    after (program [0x027C, 0xF8FF] <| setReg .sr 0x2700 <| start)
    (fun s => s.sr == 0x2000 && s.cyclesTotal == 20) = true := by
  decide +kernel

/-- SY3 of spec/95_test_vectors.md: EORI #$04,CCR. -/
theorem test_eoriCcr_SY3 :
    after (program [0x0A3C, 0x0004] <| setReg .sr 0x2704 <| start)
    (fun s => s.sr.extractLsb' 0 5 == 0x00 && s.cyclesTotal == 20) = true := by
  decide +kernel

/-- SY11 of spec/95_test_vectors.md: EORI #$2000,SR. -/
theorem test_eoriSr_SY11 :
    after (program [0x0A7C, 0x2000] <| setReg .sr 0x2000 <| setReg .usp 0x8000 <| start)
    (fun s => s.readA 7 == 0x8000 && s.sr == 0x0000 && s.cyclesTotal == 20) = true := by
  decide +kernel

/-- LG4 of spec/95_test_vectors.md: ORI.B #0,D0. -/
theorem test_ori_LG4 :
    after (program [0x0000, 0x0000] <| setReg (.d 0) 0x00000100 <| setReg .sr 0x2710 <| start)
    (fun s => s.readD 0 == 0x00000100 && s.sr.extractLsb' 0 5 == 0b10100 &&
      s.cyclesTotal == 8) = true := by
  decide +kernel

/-- LG7 of spec/95_test_vectors.md: ANDI.L #$FFFF0000,D0. -/
theorem test_andi_LG7 :
    after (program [0x0280, 0xFFFF, 0x0000] <| setReg (.d 0) 0x12345678 <| setReg .sr 0x2710 <| start)
    (fun s => s.readD 0 == 0x12340000 && s.pc == 0x406 && s.sr.extractLsb' 0 5 == 0b10000 &&
      s.cyclesTotal == 14) = true := by
  decide +kernel

/-- AR26 of spec/95_test_vectors.md: SUBI.B #$FF,D0. -/
theorem test_subi_AR26 :
    after (program [0x0400, 0x00FF] <| setReg (.d 0) 0x0000FFFF <| start)
    (fun s => s.readD 0 == 0x0000FF00 && s.sr.extractLsb' 0 5 == 0b00100 &&
      s.cyclesTotal == 8) = true := by
  decide +kernel

/-- AR24 of spec/95_test_vectors.md: ADDI.W #$0001,D0. -/
theorem test_addi_AR24 :
    after (program [0x0640, 0x0001] <| setReg (.d 0) 0x12345678 <| start)
    (fun s => s.readD 0 == 0x12345679 && s.sr.extractLsb' 0 5 == 0b00000 &&
      s.cyclesTotal == 8) = true := by
  decide +kernel

/-- LG8 of spec/95_test_vectors.md: EORI.W #$FFFF,D0. -/
theorem test_eori_LG8 :
    after (program [0x0A40, 0xFFFF] <| setReg (.d 0) 0x00001234 <| setReg .sr 0x2710 <| start)
    (fun s => s.readD 0 == 0x0000EDCB && s.sr.extractLsb' 0 5 == 0b11000 &&
      s.cyclesTotal == 8) = true := by
  decide +kernel

/-- AR25 of spec/95_test_vectors.md: CMPI.W #5,D0. -/
theorem test_cmpi_AR25 :
    after (program [0x0C40, 0x0005] <| setReg (.d 0) 5 <| start)
    (fun s => s.flagN == false && s.flagZ == true && s.flagV == false &&
      s.cyclesTotal == 8) = true := by
  decide +kernel

/-- EA11 of spec/95_test_vectors.md: BTST #3,(d16,PC). -/
theorem test_btstS_EA11 :
    after (program [0x083A, 0x0003, 0x0008] <| putB 0x40C 0x8 <| start)
    (fun s => s.flagZ == false && s.cyclesTotal == 16) = true := by
  decide +kernel

/-- BT9 of spec/95_test_vectors.md: BTST #3,D0. -/
theorem test_btstS_BT9 :
    after (program [0x0800, 0x0003] <| setReg (.d 0) 0 <| setReg (.a 0) 0x2000 <|
      setReg .sr 0x271B <| start)
    (fun s => s.sr.extractLsb' 0 5 == 0x1F && s.cyclesTotal == 10) = true := by
  decide +kernel

/-- BT4 of spec/95_test_vectors.md: BCHG #9,(A0). -/
theorem test_bchgS_BT4 :
    after (program [0x0850, 0x0009] <| putB 0x2000 0x0 <| setReg (.a 0) 0x2000 <|
      setReg .sr 0x271B <| start)
    (fun s => s.sr.extractLsb' 0 5 == 0x1F && valueAt s .b 0x2000 == 0x02 &&
      s.cyclesTotal == 16) = true := by
  decide +kernel

/-- BT5 of spec/95_test_vectors.md: BCLR #0,D0. -/
theorem test_bclrS_BT5 :
    after (program [0x0880, 0xFF00] <| setReg (.d 0) 0x00000001 <| setReg (.a 0) 0x2000 <|
      setReg .sr 0x271B <| start)
    (fun s => s.readD 0 == 0 && s.sr.extractLsb' 0 5 == 0x1B && s.flagZ == false &&
      s.cyclesTotal == 14) = true := by
  decide +kernel

/-- BT3 of spec/95_test_vectors.md: BSET #31,D0. -/
theorem test_bsetS_BT3 :
    after (program [0x08C0, 0x001F] <| setReg (.d 0) 0 <| setReg (.a 0) 0x2000 <|
      setReg .sr 0x271B <| start)
    (fun s => s.readD 0 == 0x80000000 && s.pc == 0x404 && s.sr.extractLsb' 0 5 == 0x1F &&
      s.cyclesTotal == 12) = true := by
  decide +kernel

/-- BT1 of spec/95_test_vectors.md: BTST D1,D0. -/
theorem test_btstD_BT1 :
    after (program [0x0300] <| setReg (.d 1) 0x23 <| setReg (.d 0) 0x00000008 <|
      setReg (.a 0) 0x2000 <| setReg .sr 0x271B <| start)
    (fun s => s.sr.extractLsb' 0 5 == 0x1B && s.flagZ == false &&
      s.cyclesTotal == 6) = true := by
  decide +kernel

/-- BT6 of spec/95_test_vectors.md: BTST D1,#$81. -/
theorem test_btstD_BT6 :
    after (program [0x013C, 0x0081] <| setReg (.d 1) 7 <| setReg (.a 0) 0x2000 <|
      setReg .sr 0x271B <| start)
    (fun s => s.pc == 0x404 && s.sr.extractLsb' 0 5 == 0x1B &&
      s.cyclesTotal == 8) = true := by
  decide +kernel

/-- BT8 of spec/95_test_vectors.md: BCLR D1,D0. -/
theorem test_bclrD_BT8 :
    after (program [0x0380] <| setReg (.d 1) 0x20 <| setReg (.d 0) 0xFFFFFFFF <|
      setReg (.a 0) 0x2000 <| setReg .sr 0x271B <| start)
    (fun s => s.readD 0 == 0xFFFFFFFE && s.sr.extractLsb' 0 5 == 0x1B &&
      s.cyclesTotal == 10) = true := by
  decide +kernel

/-- BT13 of spec/95_test_vectors.md: BSET D1,(A0). -/
theorem test_bsetD_BT13 :
    after (program [0x03D0] <| setReg (.d 1) 0 <| setReg (.a 0) 0x2001 <| putB 0x2001 0x0 <|
      setReg (.a 0) 0x2000 <| setReg .sr 0x271B <| start)
    (fun s => s.sr.extractLsb' 0 5 == 0x1F && valueAt s .b 0x2001 == 0x01 &&
      s.cyclesTotal == 12) = true := by
  decide +kernel

/-- BT7 of spec/95_test_vectors.md: BSET D1,(A0). -/
theorem test_bsetD_BT7 :
    after (program [0x03D0] <| setReg (.d 1) 0 <| putB 0x2000 0x1 <| setReg (.a 0) 0x2000 <|
      setReg .sr 0x271B <| start)
    (fun s => s.sr.extractLsb' 0 5 == 0x1B && s.cyclesTotal == 12) = true := by
  decide +kernel

/-- DM13 of spec/95_test_vectors.md: MOVEP.W (0,A1),D0. -/
theorem test_movepWM2R_DM13 :
    after (program [0x0109, 0x0000] <| setReg (.d 0) 0xFFFFFFFF <| setReg (.a 1) 0x3001 <|
      putB 0x3003 0x34 <| putB 0x3001 0x12 <| start)
    (fun s => s.readD 0 == 0xFFFF1234 && s.cyclesTotal == 16) = true := by
  decide +kernel

/-- DM14 of spec/95_test_vectors.md: MOVEP.L D2,(0,A0). -/
theorem test_movepLR2M_DM14 :
    after (program [0x05C8, 0x0000] <| setReg (.a 0) 0x2000 <| setReg (.d 2) 0xAABBCCDD <| start)
    (fun s => valueAt s .b 0x2000 == 0xAA && valueAt s .b 0x2006 == 0xDD &&
      valueAt s .b 0x2001 == 0 && s.cyclesTotal == 24) = true := by
  decide +kernel

/-- M13 of spec/95_test_vectors.md: MOVE.B (d16,PC),D0. -/
theorem test_moveB_M13 :
    after (program [0x103A, 0x0011] <| putB 0x413 0x80 <| start)
    (fun s => s.readD 0 == 0x00000080 && s.flagN == true && s.cyclesTotal == 12) = true := by
  decide +kernel

/-- EA5 of spec/95_test_vectors.md: MOVE.B (A7)+,D0. -/
theorem test_moveB_EA5 :
    after (program [0x101F] <| putB 0x1000 0x99 <| start)
    (fun s => s.readD 0 == 0x00000099 && s.readA 7 == 0x1002 &&
      s.cyclesTotal == 8) = true := by
  decide +kernel

/-- M1 of spec/95_test_vectors.md: MOVE.W D0,($2000).W. -/
theorem test_moveW_M1 :
    after (program [0x31C0, 0x2000] <| setReg (.d 0) 0x00001234 <| start)
    (fun s => wordAt s 0x2000 == 0x1234 && s.flagN == false && s.flagZ == false &&
      s.cyclesTotal == 12) = true := by
  decide +kernel

/-- M2 of spec/95_test_vectors.md: MOVE.W ($2000).W,D1. -/
theorem test_moveW_M2 :
    after (program [0x3238, 0x2000] <| putB 0x2001 0xCD <| putB 0x2000 0xAB <| start)
    (fun s => s.readD 1 == 0x0000ABCD && s.flagN == true && s.cyclesTotal == 12) = true := by
  decide +kernel

/-- EA7 of spec/95_test_vectors.md: MOVE.L (A0)+,-(A1). -/
theorem test_moveL_EA7 :
    after (program [0x2318] <| setReg (.a 1) 0x3008 <| setReg (.a 0) 0x2000 <|
      putL 0x2000 0xCAFEBABE <| start)
    (fun s => s.readA 0 == 0x2004 && s.readA 1 == 0x3004 && s.flagN == true &&
      s.cyclesTotal == 20) = true := by
  decide +kernel

/-- DM2 of spec/95_test_vectors.md: MOVE.L D0,D0. -/
theorem test_moveL_DM2 :
    after (program [0x2000] <| setReg (.d 0) 0 <| setReg .sr 0x2703 <| start)
    (fun s => s.readD 0 == 0 && s.sr.extractLsb' 0 5 == 0x04 && s.flagZ == true &&
      s.cyclesTotal == 4) = true := by
  decide +kernel

/-- DM3 of spec/95_test_vectors.md: MOVEA.W D0,A1. -/
theorem test_moveaW_DM3 :
    after (program [0x3240] <| setReg (.d 0) 0x00008000 <| setReg .sr 0x271F <| start)
    (fun s => s.readA 1 == 0xFFFF8000 && s.sr.extractLsb' 0 5 == 0x1F &&
      s.cyclesTotal == 4) = true := by
  decide +kernel

/-- EA12 of spec/95_test_vectors.md: MOVEA.L (A0)+,A0. -/
theorem test_moveaL_EA12 :
    after (program [0x2058] <| setReg (.a 0) 0x2000 <| putL 0x2000 0x12345678 <| start)
    (fun s => s.readA 0 == 0x12345678 && s.cyclesTotal == 12) = true := by
  decide +kernel

/-- SY7 of spec/95_test_vectors.md: MOVE SR,D0. -/
theorem test_moveFromSr_SY7 :
    after (program [0x40C0] <| setReg .sr 4 <| start)
    (fun s => s.readD 0 == 0x00000004 && s.cyclesTotal == 6) = true := by
  decide +kernel

/-- SY8 of spec/95_test_vectors.md: MOVE SR,(A0). -/
theorem test_moveFromSr_SY8 :
    after (program [0x40D0] <| setReg (.a 0) 0x2000 <| setReg .sr 0x2704 <| start)
    (fun s => valueAt s .w 0x2000 == 0x2704 && s.cyclesTotal == 12) = true := by
  decide +kernel

/-- SY5 of spec/95_test_vectors.md: MOVE #$FF00,CCR. -/
theorem test_moveToCcr_SY5 :
    after (program [0x44FC, 0xFF00] <| setReg .sr 0x271F <| start)
    (fun s => s.sr == 0x2700 && s.sr.extractLsb' 0 5 == 0x00 &&
      s.cyclesTotal == 16) = true := by
  decide +kernel

/-- SY6 of spec/95_test_vectors.md: MOVE #$001F,CCR. -/
theorem test_moveToCcr_SY6 :
    after (program [0x44FC, 0x001F] <| setReg .sr 0x2700 <| start)
    (fun s => s.sr.extractLsb' 0 5 == 0x1F && s.cyclesTotal == 16) = true := by
  decide +kernel

/-- SY14 of spec/95_test_vectors.md: MOVE #$2700,SR. -/
theorem test_moveToSr_SY14 :
    after (program [0x46FC, 0x2700] <| setReg .sr 0 <| putL 0x20 0x750 <| start)
    (fun s => s.readA 7 == 0xFFA && s.pc == 0x750 && s.sr == 0x2000 &&
      s.cyclesTotal == 34) = true := by
  decide +kernel

/-- SY12 of spec/95_test_vectors.md: MOVE #$0000,SR. -/
theorem test_moveToSr_SY12 :
    after (program [0x46FC, 0x0000] <| setReg .sr 0x2700 <| setReg .usp 0 <| start)
    (fun s => s.sr == 0x0000 && s.cyclesTotal == 16) = true := by
  decide +kernel

/-- AR17 of spec/95_test_vectors.md: NEGX.L D0. -/
theorem test_negx_AR17 :
    after (program [0x4080] <| setReg (.d 0) 0 <| setFlagBit 4 4 <| setFlagBit 16 16 <| start)
    (fun s => s.readD 0 == 0xFFFFFFFF && s.sr.extractLsb' 0 5 == 0b11001 &&
      s.cyclesTotal == 6) = true := by
  decide +kernel

/-- AR18 of spec/95_test_vectors.md: NEGX.B D0. -/
theorem test_negx_AR18 :
    after (program [0x4000] <| setReg (.d 0) 0 <| setFlagBit 4 4 <| setFlagBit 16 0 <| start)
    (fun s => s.readD 0 == 0 && s.sr.extractLsb' 0 5 == 0b00100 &&
      s.cyclesTotal == 4) = true := by
  decide +kernel

/-- AR28 of spec/95_test_vectors.md: CLR.B D0. -/
theorem test_clr_AR28 :
    after (program [0x4200] <| setReg (.d 0) 0x12345678 <| setFlagBit 16 16 <| start)
    (fun s => s.readD 0 == 0x12345600 && s.sr.extractLsb' 0 5 == 0b10100 &&
      s.cyclesTotal == 4) = true := by
  decide +kernel

/-- AR15 of spec/95_test_vectors.md: NEG.B D0. -/
theorem test_neg_AR15 :
    after (program [0x4400] <| setReg (.d 0) 0 <| start)
    (fun s => s.readD 0 == 0 && s.sr.extractLsb' 0 5 == 0b00100 &&
      s.cyclesTotal == 4) = true := by
  decide +kernel

/-- AR16 of spec/95_test_vectors.md: NEG.W D0. -/
theorem test_neg_AR16 :
    after (program [0x4440] <| setReg (.d 0) 0x8000 <| start)
    (fun s => s.readD 0 == 0x00008000 && s.sr.extractLsb' 0 5 == 0b11011 &&
      s.cyclesTotal == 4) = true := by
  decide +kernel

/-- LG3 of spec/95_test_vectors.md: NOT.L D0. -/
theorem test_notEa_LG3 :
    after (program [0x4680] <| setReg (.d 0) 0xFFFFFFFF <| setReg .sr 0x2710 <| start)
    (fun s => s.readD 0 == 0 && s.sr.extractLsb' 0 5 == 0b10100 &&
      s.cyclesTotal == 6) = true := by
  decide +kernel

/-- AR27 of spec/95_test_vectors.md: TST.W D0. -/
theorem test_tst_AR27 :
    after (program [0x4A40] <| setReg (.d 0) 0x8000 <| setFlagBit 16 16 <| start)
    (fun s => s.sr.extractLsb' 0 5 == 0b11000 && s.cyclesTotal == 4) = true := by
  decide +kernel

/-- BC7 of spec/95_test_vectors.md: NBCD D0. -/
theorem test_nbcd_BC7 :
    after (program [0x4800] <| setReg (.d 0) 0x00 <| setFlagBit 4 4 <| setFlagBit 16 0 <| start)
    (fun s => trunc .b (s.readD 0) == 0x00 && s.cyclesTotal == 6) = true := by
  decide +kernel

/-- BC8 of spec/95_test_vectors.md: NBCD D0. -/
theorem test_nbcd_BC8 :
    after (program [0x4800] <| setReg (.d 0) 0x99 <| setFlagBit 16 0 <| start)
    (fun s => trunc .b (s.readD 0) == 0x01 && s.cyclesTotal == 6) = true := by
  decide +kernel

/-- DM21 of spec/95_test_vectors.md: SWAP D0. -/
theorem test_swap_DM21 :
    after (program [0x4840] <| setReg (.d 0) 0x0000FFFF <| start)
    (fun s => s.readD 0 == 0xFFFF0000 && s.flagN == true && s.flagZ == false &&
      s.cyclesTotal == 4) = true := by
  decide +kernel

/-- DM17 of spec/95_test_vectors.md: PEA (A7). -/
theorem test_pea_DM17 :
    after (program [0x4857] <| setReg (.a 7) 0x1000 <| start)
    (fun s => s.readA 7 == 0x0FFC && valueAt s .l 0x0FFC == 0x00001000 &&
      s.cyclesTotal == 12) = true := by
  decide +kernel

/-- AR29 of spec/95_test_vectors.md: EXT.W D0. -/
theorem test_extW_AR29 :
    after (program [0x4880] <| setReg (.d 0) 0x00000080 <| start)
    (fun s => s.readD 0 == 0x0000FF80 && s.flagN == true && s.flagZ == false &&
      s.cyclesTotal == 4) = true := by
  decide +kernel

/-- AR30 of spec/95_test_vectors.md: EXT.L D0. -/
theorem test_extL_AR30 :
    after (program [0x48C0] <| setReg (.d 0) 0x00008000 <| start)
    (fun s => s.readD 0 == 0xFFFF8000 && s.flagN == true && s.flagZ == false &&
      s.cyclesTotal == 4) = true := by
  decide +kernel

/-- DM8 of spec/95_test_vectors.md: MOVEM.L D0-D1,(A0). -/
theorem test_movemLR2M_DM8 :
    after (program [0x48D0, 0x0003] <| setReg (.d 1) 0x22222222 <| setReg (.d 0) 0x11111111 <|
      setReg (.a 0) 0x2000 <| start)
    (fun s => valueAt s .l 0x2000 == 0x11111111 && s.cyclesTotal == 24) = true := by
  decide +kernel

/-- DM9 of spec/95_test_vectors.md: MOVEM.L A7,-(A7). -/
theorem test_movemLR2M_DM9 :
    after (program [0x48E7, 0x0001] <| setReg (.a 7) 0x1000 <| start)
    (fun s => s.readA 7 == 0x0FFC && s.cyclesTotal == 16) = true := by
  decide +kernel

/-- BT10 of spec/95_test_vectors.md: TAS (A0). -/
theorem test_tas_BT10 :
    after (program [0x4AD0] <| putB 0x2000 0x80 <| setReg (.a 0) 0x2000 <| setReg .sr 0x271B <| start)
    (fun s => s.sr.extractLsb' 0 5 == 0x18 && s.sr.extractLsb' 0 5 == 0b11000 &&
      valueAt s .b 0x2000 == 0x80 && s.cyclesTotal == 14) = true := by
  decide +kernel

/-- BT12 of spec/95_test_vectors.md: TAS D0. -/
theorem test_tas_BT12 :
    after (program [0x4AC0] <| setReg (.d 0) 0x00000001 <| setReg (.a 0) 0x2000 <|
      setReg .sr 0x271B <| start)
    (fun s => s.readD 0 == 0x00000081 && s.sr.extractLsb' 0 5 == 0x10 &&
      s.sr.extractLsb' 0 5 == 0b10000 && s.cyclesTotal == 4) = true := by
  decide +kernel

/-- SY29 of spec/95_test_vectors.md: ILLEGAL. -/
theorem test_illegal_SY29 :
    after (program [0x4AFC] <| setReg .sr 0x2700 <| putL 0x10 0x710 <| start)
    (fun s => s.pc == 0x710 && s.cyclesTotal == 34) = true := by
  decide +kernel

/-- DM6 of spec/95_test_vectors.md: MOVEM.W (A0)+,D0-D1. -/
theorem test_movemWM2R_DM6 :
    after (program [0x4C98, 0x0003] <| setReg (.a 0) 0x2000 <| putW 0x2002 0x1 <|
      putW 0x2000 0x8000 <| start)
    (fun s => s.readD 0 == 0xFFFF8000 && s.readD 1 == 0x00000001 && s.readA 0 == 0x2004 &&
      s.cyclesTotal == 20) = true := by
  decide +kernel

/-- DM7 of spec/95_test_vectors.md: MOVEM.W (A0)+,A1. -/
theorem test_movemWM2R_DM7 :
    after (program [0x4C98, 0x0200] <| setReg (.a 0) 0x2000 <| putW 0x2000 0xFFFE <| start)
    (fun s => s.readA 1 == 0xFFFFFFFE && s.readA 0 == 0x2002 &&
      s.cyclesTotal == 16) = true := by
  decide +kernel

/-- AR47 of spec/95_test_vectors.md: CHK.W D1,D0. -/
theorem test_chk_AR47 :
    after (program [0x4181] <| setReg (.d 1) 4 <| setReg (.d 0) 4 <| start)
    (fun s => s.pc == 0x402 && s.cyclesTotal == 10) = true := by
  decide +kernel

/-- DM15 of spec/95_test_vectors.md: LEA (1,A0),A1. -/
theorem test_lea_DM15 :
    after (program [0x43E8, 0x0001] <| setReg (.a 0) 0x2001 <| start)
    (fun s => s.readA 1 == 0x00002002 && s.cyclesTotal == 8) = true := by
  decide +kernel

/-- DM16 of spec/95_test_vectors.md: LEA ($8000).W,A0. -/
theorem test_lea_DM16 :
    after (program [0x41F8, 0x8000] <| start)
    (fun s => s.readA 0 == 0xFFFF8000 && s.cyclesTotal == 8) = true := by
  decide +kernel

/-- SY27 of spec/95_test_vectors.md: TRAP #1. -/
theorem test_trap_SY27 :
    after (program [0x4E41] <| setReg .sr 0x2700 <| putL 0x84 0x510 <| start)
    (fun s => s.pc == 0x510 && s.cyclesTotal == 34) = true := by
  decide +kernel

/-- SY28 of spec/95_test_vectors.md: TRAP #15. -/
theorem test_trap_SY28 :
    after (program [0x4E4F] <| setReg .sr 0x2700 <| putL 0xBC 0x5F0 <| start)
    (fun s => s.pc == 0x5F0 && s.cyclesTotal == 34) = true := by
  decide +kernel

/-- DM22 of spec/95_test_vectors.md: LINK A6,#-8. -/
theorem test_link_DM22 :
    after (program [0x4E56, 0xFFF8] <| setReg (.a 6) 0x5555 <| setReg (.a 7) 0x1000 <| start)
    (fun s => s.readA 6 == 0x0FFC && s.readA 7 == 0x0FF4 && valueAt s .l 0x0FFC == 0x00005555 &&
      s.cyclesTotal == 16) = true := by
  decide +kernel

/-- DM24 of spec/95_test_vectors.md: LINK A7,#-4. -/
theorem test_link_DM24 :
    after (program [0x4E57, 0xFFFC] <| setReg (.a 7) 0x1000 <| start)
    (fun s => s.readA 7 == 0x0FF8 && valueAt s .l 0x0FFC == 0x00000FFC &&
      s.cyclesTotal == 16) = true := by
  decide +kernel

/-- SY19 of spec/95_test_vectors.md: MOVE A0,USP. -/
theorem test_moveToUsp_SY19 :
    after (program [0x4E60] <| setReg (.a 0) 0x8000 <| setReg .sr 0 <| putL 0x20 0x750 <| start)
    (fun s => s.pc == 0x750 && s.cyclesTotal == 34) = true := by
  decide +kernel

/-- SY16 of spec/95_test_vectors.md: MOVE USP,A1. -/
theorem test_moveFromUsp_SY16 :
    after (program [0x4E69] <| setReg .usp 0x8000 <| start)
    (fun s => s.readA 1 == 0x8000 && s.cyclesTotal == 4) = true := by
  decide +kernel

/-- SY22 of spec/95_test_vectors.md: RESET. -/
theorem test_reset_SY22 :
    after (program [0x4E70] <| setReg .sr 0x2700 <| start)
    (fun s => s.pc == 0x402 && s.cyclesTotal == 132) = true := by
  decide +kernel

/-- SY23 of spec/95_test_vectors.md: RESET. -/
theorem test_reset_SY23 :
    after (program [0x4E70] <| setReg .sr 0 <| putL 0x20 0x750 <| start)
    (fun s => s.pc == 0x750 && s.cyclesTotal == 34) = true := by
  decide +kernel

/-- PC27 of spec/95_test_vectors.md: NOP. -/
theorem test_nop_PC27 :
    after (program [0x4E71] <| setReg (.a 0) 0x2000 <| start)
    (fun s => s.pc == 0x402 && s.cyclesTotal == 4) = true := by
  decide +kernel

/-- SY24 of spec/95_test_vectors.md: STOP #$2700. -/
theorem test_stop_SY24 :
    after (program [0x4E72, 0x2700] <| setReg .sr 0x2700 <| start)
    (fun s => s.pc == 0x404 && s.sr == 0x2700 && s.cyclesTotal == 4) = true := by
  decide +kernel

/-- SY25 of spec/95_test_vectors.md: STOP #$0700. -/
theorem test_stop_SY25 :
    after (program [0x4E72, 0x0700] <| setReg .sr 0x2700 <| setReg .usp 0x3000 <| start)
    (fun s => s.pc == 0x404 && s.sr == 0x0700 && s.cyclesTotal == 4) = true := by
  decide +kernel

/-- SY20 of spec/95_test_vectors.md: RTE. -/
theorem test_rte_SY20 :
    after (program [0x4E73] <| setReg (.a 7) 0xFFA <| setReg .sr 0x2700 <| setReg .usp 0 <|
      putW 0xFFE 0x500 <| putW 0xFFC 0x0 <| putW 0xFFA 0x0 <| putL 0x80 0x500 <| start)
    (fun s => s.pc == 0x500 && s.sr == 0x0000 && s.cyclesTotal == 20) = true := by
  decide +kernel

/-- SY21 of spec/95_test_vectors.md: RTE. -/
theorem test_rte_SY21 :
    after (program [0x4E73] <| setReg .sr 0 <| putL 0x20 0x750 <| start)
    (fun s => s.pc == 0x750 && s.cyclesTotal == 34) = true := by
  decide +kernel

/-- PC21 of spec/95_test_vectors.md: RTS. -/
theorem test_rts_PC21 :
    after (program [0x4E75] <| setReg (.a 7) 0xFFC <| putL 0xFFC 0x402 <| setReg (.a 0) 0x2000 <|
      start)
    (fun s => s.readA 7 == 0x1000 && s.pc == 0x402 && s.cyclesTotal == 16) = true := by
  decide +kernel

/-- PC22 of spec/95_test_vectors.md: RTS. -/
theorem test_rts_PC22 :
    after (program [0x4E75] <| setReg (.a 7) 0xFFC <| putL 0xFFC 0x2001 <| setReg (.a 0) 0x2000 <|
      start)
    (fun s => s.readA 7 == 0x1000) = true := by
  decide +kernel

/-- PC26 of spec/95_test_vectors.md: TRAPV. -/
theorem test_trapv_PC26 :
    after (program [0x4E76] <| setFlagBit 2 2 <| setReg .sr 0x2702 <| setReg (.a 0) 0x2000 <|
      putL 0x1C 0x740 <| start)
    (fun s => s.pc == 0x740 && s.sr == 0x2702 && s.cyclesTotal == 34) = true := by
  decide +kernel

/-- PC25 of spec/95_test_vectors.md: TRAPV. -/
theorem test_trapv_PC25 :
    after (program [0x4E76] <| setFlagBit 2 0 <| setReg (.a 0) 0x2000 <| start)
    (fun s => s.pc == 0x402 && s.cyclesTotal == 4) = true := by
  decide +kernel

/-- PC23 of spec/95_test_vectors.md: RTR. -/
theorem test_rtr_PC23 :
    after (program [0x4E77] <| setReg (.a 7) 0xFF0 <| putW 0xFF4 0x500 <| putW 0xFF2 0x0 <|
      putW 0xFF0 0x1F <| setReg (.a 0) 0x2000 <| putL 0x80 0x500 <| start)
    (fun s => s.readA 7 == 0xFF6 && s.pc == 0x500 && s.sr == 0x271F &&
      s.cyclesTotal == 20) = true := by
  decide +kernel

/-- PC24 of spec/95_test_vectors.md: RTR. -/
theorem test_rtr_PC24 :
    after (program [0x4E77] <| setReg (.a 7) 0xFF0 <| putW 0xFF4 0x500 <| putW 0xFF2 0x0 <|
      putW 0xFF0 0xFFFF <| setReg (.a 0) 0x2000 <| start)
    (fun s => s.sr == 0x271F && s.cyclesTotal == 20) = true := by
  decide +kernel

/-- PC18 of spec/95_test_vectors.md: JSR ($2000).W. -/
theorem test_jsr_PC18 :
    after (program [0x4EB8, 0x2000] <| setReg (.a 7) 0x1000 <| setReg (.a 0) 0x2000 <| start)
    (fun s => s.readA 7 == 0xFFC && s.pc == 0x2000 && valueAt s .l 0xFFC == 0x00000404 &&
      s.cyclesTotal == 18) = true := by
  decide +kernel

/-- PC19 of spec/95_test_vectors.md: JSR (A7). -/
theorem test_jsr_PC19 :
    after (program [0x4E97] <| setReg (.a 7) 0x1000 <| setReg (.a 0) 0x2000 <| start)
    (fun s => s.readA 7 == 0xFFC && s.pc == 0x1000 && valueAt s .l 0xFFC == 0x00000402 &&
      s.cyclesTotal == 16) = true := by
  decide +kernel

/-- AR20 of spec/95_test_vectors.md: ADDQ.B #1,D0. -/
theorem test_addqB_AR20 :
    after (program [0x5200] <| setReg (.d 0) 0xFF <| start)
    (fun s => s.readD 0 == 0 && s.sr.extractLsb' 0 5 == 0b10101 &&
      s.cyclesTotal == 4) = true := by
  decide +kernel

/-- AR21 of spec/95_test_vectors.md: ADDQ.W #1,A0. -/
theorem test_addqWL_AR21 :
    after (program [0x5248] <| setReg (.a 0) 0xFFFFFFFF <| start)
    (fun s => s.readA 0 == 0x00000000 && s.sr.extractLsb' 0 5 == 0b00000 &&
      s.cyclesTotal == 8) = true := by
  decide +kernel

/-- AR19 of spec/95_test_vectors.md: SUBQ.L #8,D0. -/
theorem test_subqWL_AR19 :
    after (program [0x5180] <| setReg (.d 0) 8 <| start)
    (fun s => s.readD 0 == 0 && s.sr.extractLsb' 0 5 == 0b00100 &&
      s.cyclesTotal == 8) = true := by
  decide +kernel

/-- PC10 of spec/95_test_vectors.md: DBEQ D0. -/
theorem test_dbcc_PC10 :
    after (program [0x57C8, 0xFFFE] <| setReg (.d 0) 5 <| setFlagBit 4 4 <| setReg (.a 0) 0x2000 <|
      start)
    (fun s => s.readD 0 == 5 && s.pc == 0x404 && s.cyclesTotal == 12) = true := by
  decide +kernel

/-- PC11 of spec/95_test_vectors.md: DBRA D0. -/
theorem test_dbcc_PC11 :
    after (program [0x51C8, 0xFFFE] <| setReg (.d 0) 0x12340000 <| setFlagBit 4 0 <|
      setReg (.a 0) 0x2000 <| start)
    (fun s => s.readD 0 == 0x1234FFFF && s.pc == 0x404 && s.cyclesTotal == 14) = true := by
  decide +kernel

/-- PC13 of spec/95_test_vectors.md: SEQ D0. -/
theorem test_scc_PC13 :
    after (program [0x57C0] <| setReg (.d 0) 0xFFFFFFFF <| setFlagBit 4 0 <| setReg (.a 0) 0x2000 <|
      start)
    (fun s => s.readD 0 == 0xFFFFFF00 && s.cyclesTotal == 4) = true := by
  decide +kernel

/-- PC14 of spec/95_test_vectors.md: SEQ D0. -/
theorem test_scc_PC14 :
    after (program [0x57C0] <| setReg (.d 0) 0 <| setFlagBit 4 4 <| setReg (.a 0) 0x2000 <| start)
    (fun s => s.readD 0 == 0x000000FF && s.cyclesTotal == 6) = true := by
  decide +kernel

/-- PC8 of spec/95_test_vectors.md: BSR.S. -/
theorem test_bsr_PC8 :
    after (program [0x6106] <| setReg (.a 7) 0x1000 <| setReg (.a 0) 0x2000 <| start)
    (fun s => s.readA 7 == 0xFFC && s.pc == 0x408 && valueAt s .l 0xFFC == 0x00000402 &&
      s.cyclesTotal == 18) = true := by
  decide +kernel

/-- PC9 of spec/95_test_vectors.md: BSR.W. -/
theorem test_bsr_PC9 :
    after (program [0x6100, 0x0100] <| setReg (.a 7) 0x1000 <| setReg (.a 0) 0x2000 <| start)
    (fun s => s.pc == 0x502 && valueAt s .l 0xFFC == 0x00000404 &&
      s.cyclesTotal == 18) = true := by
  decide +kernel

/-- PC1 of spec/95_test_vectors.md: BNE.W. -/
theorem test_bcc_PC1 :
    after (program [0x6600, 0x0010] <| setFlagBit 4 4 <| setReg .sr 0x2704 <| setReg (.a 0) 0x2000 <|
      start)
    (fun s => s.pc == 0x404 && s.cyclesTotal == 12) = true := by
  decide +kernel

/-- PC3 of spec/95_test_vectors.md: BEQ.S. -/
theorem test_bcc_PC3 :
    after (program [0x6704] <| setFlagBit 4 0 <| setReg (.a 0) 0x2000 <| start)
    (fun s => s.pc == 0x402 && s.cyclesTotal == 8) = true := by
  decide +kernel

/-- DM4 of spec/95_test_vectors.md: MOVEQ #-128,D0. -/
theorem test_moveq_DM4 :
    after (program [0x7080] <| start)
    (fun s => s.readD 0 == 0xFFFFFF80 && s.flagN == true && s.flagZ == false &&
      s.cyclesTotal == 4) = true := by
  decide +kernel

/-- DM5 of spec/95_test_vectors.md: MOVEQ #0,D7. -/
theorem test_moveq_DM5 :
    after (program [0x7E00] <| start)
    (fun s => s.readD 7 == 0 && s.flagZ == true && s.cyclesTotal == 4) = true := by
  decide +kernel

/-- AR5 of spec/95_test_vectors.md: SUB.B D1,D0. -/
theorem test_subEaDB_AR5 :
    after (program [0x9001] <| setReg (.d 1) 0x80 <| setReg (.d 0) 0x00 <| start)
    (fun s => s.readD 0 == 0x00000080 && s.sr.extractLsb' 0 5 == 0b11011 &&
      s.cyclesTotal == 4) = true := by
  decide +kernel

/-- AR4 of spec/95_test_vectors.md: SUB.L D1,D0. -/
theorem test_subEaDWL_AR4 :
    after (program [0x9081] <| setReg (.d 1) 1 <| setReg (.d 0) 0x80000000 <| start)
    (fun s => s.readD 0 == 0x7FFFFFFF && s.sr.extractLsb' 0 5 == 0b00010 &&
      s.cyclesTotal == 8) = true := by
  decide +kernel

/-- AR23 of spec/95_test_vectors.md: SUBA.L D0,A0. -/
theorem test_subaL_AR23 :
    after (program [0x91C0] <| setReg (.d 0) 0x00008000 <| setReg (.a 0) 0x1000 <| start)
    (fun s => s.readA 0 == 0xFFFF9000 && s.cyclesTotal == 8) = true := by
  decide +kernel

/-- AR13 of spec/95_test_vectors.md: SUBX.B D1,D0. -/
theorem test_subxR_AR13 :
    after (program [0x9101] <| setReg (.d 1) 0xFF <| setReg (.d 0) 0x00 <| setFlagBit 4 4 <|
      setFlagBit 16 16 <| start)
    (fun s => s.readD 0 == 0x00000000 && s.sr.extractLsb' 0 5 == 0b10101 &&
      s.cyclesTotal == 4) = true := by
  decide +kernel

/-- AR1 of spec/95_test_vectors.md: ADD.B D1,D0. -/
theorem test_addEaDB_AR1 :
    after (program [0xD001] <| setReg (.d 1) 0x01 <| setReg (.d 0) 0x7F <| start)
    (fun s => s.readD 0 == 0x00000080 && s.sr.extractLsb' 0 5 == 0b01010 &&
      s.cyclesTotal == 4) = true := by
  decide +kernel

/-- AR2 of spec/95_test_vectors.md: ADD.W D1,D0. -/
theorem test_addEaDWL_AR2 :
    after (program [0xD041] <| setReg (.d 1) 0x0001 <| setReg (.d 0) 0xFFFF <| start)
    (fun s => s.readD 0 == 0x00000000 && s.sr.extractLsb' 0 5 == 0b10101 &&
      s.cyclesTotal == 4) = true := by
  decide +kernel

/-- AR3 of spec/95_test_vectors.md: ADD.L D1,D0. -/
theorem test_addEaDWL_AR3 :
    after (program [0xD081] <| setReg (.d 1) 0x80000000 <| setReg (.d 0) 0x80000000 <| start)
    (fun s => s.readD 0 == 0 && s.sr.extractLsb' 0 5 == 0b10111 &&
      s.cyclesTotal == 8) = true := by
  decide +kernel

/-- AR22 of spec/95_test_vectors.md: ADDA.W D0,A0. -/
theorem test_addaW_AR22 :
    after (program [0xD0C0] <| setReg (.d 0) 0x00008000 <| setReg (.a 0) 0x1000 <| start)
    (fun s => s.readA 0 == 0xFFFF9000 && s.cyclesTotal == 8) = true := by
  decide +kernel

/-- AR11 of spec/95_test_vectors.md: ADDX.L D1,D0. -/
theorem test_addxR_AR11 :
    after (program [0xD181] <| setReg (.d 1) 0 <| setReg (.d 0) 0xFFFFFFFF <| setFlagBit 4 4 <|
      setFlagBit 16 16 <| start)
    (fun s => s.readD 0 == 0 && s.sr.extractLsb' 0 5 == 0b10101 &&
      s.cyclesTotal == 8) = true := by
  decide +kernel

/-- AR12 of spec/95_test_vectors.md: ADDX.L D1,D0. -/
theorem test_addxR_AR12 :
    after (program [0xD181] <| setReg (.d 1) 0 <| setReg (.d 0) 0xFFFFFFFF <| setFlagBit 4 0 <|
      setFlagBit 16 16 <| start)
    (fun s => s.readD 0 == 0 && s.sr.extractLsb' 0 5 == 0b10001 &&
      s.cyclesTotal == 8) = true := by
  decide +kernel

/-- AR14 of spec/95_test_vectors.md: ADDX.W -(A1),-(A0). -/
theorem test_addxM_AR14 :
    after (program [0xD149] <| setReg (.a 1) 0x3002 <| setReg (.a 0) 0x2002 <| setFlagBit 16 0 <|
      putW 0x3000 0xFFFF <| putW 0x2000 0x1 <| start)
    (fun s => s.readA 0 == 0x2000 && s.readA 1 == 0x3000 && s.cyclesTotal == 18) = true := by
  decide +kernel

/-- LG5 of spec/95_test_vectors.md: OR.W D1,D0. -/
theorem test_orEaD_LG5 :
    after (program [0x8041] <| setReg (.d 1) 0x00000F00 <| setReg (.d 0) 0x000000F0 <|
      setReg .sr 0x2710 <| start)
    (fun s => s.readD 0 == 0x00000FF0 && s.sr.extractLsb' 0 5 == 0b10000 &&
      s.cyclesTotal == 4) = true := by
  decide +kernel

/-- LG9 of spec/95_test_vectors.md: OR.L (A0),D0. -/
theorem test_orEaD_LG9 :
    after (program [0x8090] <| setReg (.d 0) 0x80000000 <| setReg (.a 0) 0x2000 <| putL 0x2000 0x1 <|
      setReg .sr 0x2710 <| start)
    (fun s => s.readD 0 == 0x80000001 && s.sr.extractLsb' 0 5 == 0b11000 &&
      s.cyclesTotal == 14) = true := by
  decide +kernel

/-- AR42 of spec/95_test_vectors.md: DIVU.W D1,D0. -/
theorem test_divu_AR42 :
    after (program [0x80C1] <| setReg (.d 1) 0xFFFF <| setReg (.d 0) 0xFFFEFFFF <| start)
    (fun s => s.readD 0 == 0xFFFEFFFF && s.flagN == true && s.flagZ == false) = true := by
  decide +kernel

/-- AR35 of spec/95_test_vectors.md: DIVS.W D1,D0. -/
theorem test_divs_AR35 :
    after (program [0x81C1] <| setReg (.d 1) 2 <| setReg (.d 0) 0xFFFFFFF9 <| start)
    (fun s => s.readD 0 == 0xFFFFFFFD && s.flagN == true && s.flagZ == false) = true := by
  decide +kernel

/-- AR36 of spec/95_test_vectors.md: DIVS.W D1,D0. -/
theorem test_divs_AR36 :
    after (program [0x81C1] <| setReg (.d 1) 0xFFFE <| setReg (.d 0) 7 <| start)
    (fun s => s.readD 0 == 0x0001FFFD && s.flagN == true && s.flagZ == false) = true := by
  decide +kernel

/-- BC5 of spec/95_test_vectors.md: SBCD D1,D0. -/
theorem test_sbcdR_BC5 :
    after (program [0x8101] <| setReg (.d 1) 0x38 <| setReg (.d 0) 0xFFFFFF45 <| setFlagBit 16 0 <|
      start)
    (fun s => s.readD 0 == 0xFFFFFF07 && s.cyclesTotal == 6) = true := by
  decide +kernel

/-- BC6 of spec/95_test_vectors.md: SBCD D1,D0. -/
theorem test_sbcdR_BC6 :
    after (program [0x8101] <| setReg (.d 1) 0x00 <| setReg (.d 0) 0x00 <| setFlagBit 4 4 <|
      setFlagBit 16 16 <| start)
    (fun s => trunc .b (s.readD 0) == 0x99 && s.cyclesTotal == 6) = true := by
  decide +kernel

/-- AR6 of spec/95_test_vectors.md: CMP.B D1,D0. -/
theorem test_cmpB_AR6 :
    after (program [0xB001] <| setReg (.d 1) 0x80 <| setReg (.d 0) 0x7F <| setFlagBit 16 0 <| start)
    (fun s => s.sr.extractLsb' 0 5 == 0b01011 && s.cyclesTotal == 4) = true := by
  decide +kernel

/-- AR7 of spec/95_test_vectors.md: CMP.W D1,D0. -/
theorem test_cmpWL_AR7 :
    after (program [0xB041] <| setReg (.d 1) 1 <| setReg (.d 0) 0x8000 <| setFlagBit 16 16 <| start)
    (fun s => s.sr.extractLsb' 0 5 == 0b10010 && s.cyclesTotal == 4) = true := by
  decide +kernel

/-- AR8 of spec/95_test_vectors.md: CMP.L D1,D0. -/
theorem test_cmpWL_AR8 :
    after (program [0xB081] <| setReg (.d 1) 1 <| setReg (.d 0) 0 <| start)
    (fun s => s.sr.extractLsb' 0 5 == 0b01001 && s.cyclesTotal == 6) = true := by
  decide +kernel

/-- AR10 of spec/95_test_vectors.md: CMPA.W D1,A0. -/
theorem test_cmpaW_AR10 :
    after (program [0xB0C1] <| setReg (.d 1) 0x0000FFFF <| setReg (.a 0) 0x00000000 <| start)
    (fun s => s.sr.extractLsb' 0 5 == 0b00001 && s.cyclesTotal == 6) = true := by
  decide +kernel

/-- AR9 of spec/95_test_vectors.md: CMPA.L D1,A0. -/
theorem test_cmpaL_AR9 :
    after (program [0xB1C1] <| setReg (.d 1) 0x80000000 <| setReg (.a 0) 0x7FFFFFFF <| start)
    (fun s => s.sr.extractLsb' 0 5 == 0b01011 && s.cyclesTotal == 6) = true := by
  decide +kernel

/-- LG2 of spec/95_test_vectors.md: EOR.B D1,D0. -/
theorem test_eor_LG2 :
    after (program [0xB300] <| setReg (.d 1) 0x000000AA <| setReg (.d 0) 0x000000AA <|
      setReg .sr 0x2713 <| setReg .sr 0x2710 <| start)
    (fun s => s.readD 0 == 0x00000000 && s.sr.extractLsb' 0 5 == 0b10100 &&
      s.cyclesTotal == 4) = true := by
  decide +kernel

/-- EA10 of spec/95_test_vectors.md: CMPM.W (A0)+,(A0)+. -/
theorem test_cmpm_EA10 :
    after (program [0xB148] <| setReg (.a 0) 0x2000 <| start)
    (fun s => s.readA 0 == 0x2004 && s.flagZ == true && s.cyclesTotal == 12) = true := by
  decide +kernel

/-- LG1 of spec/95_test_vectors.md: AND.L D1,D0. -/
theorem test_andEaD_LG1 :
    after (program [0xC081] <| setReg (.d 1) 0x80000000 <| setReg (.d 0) 0xFFFFFFFF <|
      setReg .sr 0x2710 <| start)
    (fun s => s.readD 0 == 0x80000000 && s.sr.extractLsb' 0 5 == 0b11000 &&
      s.cyclesTotal == 8) = true := by
  decide +kernel

/-- LG6 of spec/95_test_vectors.md: AND.W D0,(A0). -/
theorem test_andDEa_LG6 :
    after (program [0xC150] <| setReg (.d 0) 0x0F0F <| setReg (.a 0) 0x2000 <| putW 0x2000 0xFF00 <|
      setReg .sr 0x2710 <| start)
    (fun s => s.sr.extractLsb' 0 5 == 0b10000 && valueAt s .w 0x2000 == 0x0F00 &&
      s.cyclesTotal == 12) = true := by
  decide +kernel

/-- AR33 of spec/95_test_vectors.md: MULU.W D1,D0. -/
theorem test_mulu_AR33 :
    after (program [0xC0C1] <| setReg (.d 1) 0xFFFF <| setReg (.d 0) 0xFFFF <| start)
    (fun s => s.readD 0 == 0xFFFE0001 && s.flagN == true && s.flagZ == false &&
      s.cyclesTotal == 70) = true := by
  decide +kernel

/-- AR34 of spec/95_test_vectors.md: MULU.W D1,D0. -/
theorem test_mulu_AR34 :
    after (program [0xC0C1] <| setReg (.d 1) 0 <| setReg (.d 0) 0x12340005 <| start)
    (fun s => s.readD 0 == 0 && s.flagN == false && s.flagZ == true &&
      s.cyclesTotal == 38) = true := by
  decide +kernel

/-- AR31 of spec/95_test_vectors.md: MULS.W D1,D0. -/
theorem test_muls_AR31 :
    after (program [0xC1C1] <| setReg (.d 1) 0x8000 <| setReg (.d 0) 0x8000 <| start)
    (fun s => s.readD 0 == 0x40000000 && s.flagN == false && s.flagZ == false &&
      s.cyclesTotal == 40) = true := by
  decide +kernel

/-- AR32 of spec/95_test_vectors.md: MULS.W D1,D0. -/
theorem test_muls_AR32 :
    after (program [0xC1C1] <| setReg (.d 1) 0x8000 <| setReg (.d 0) 0x7FFF <| start)
    (fun s => s.readD 0 == 0xC0008000 && s.flagN == true && s.flagZ == false &&
      s.cyclesTotal == 40) = true := by
  decide +kernel

/-- BC1 of spec/95_test_vectors.md: ABCD D1,D0. -/
theorem test_abcdR_BC1 :
    after (program [0xC101] <| setReg (.d 1) 0x38 <| setReg (.d 0) 0x45 <| setFlagBit 4 4 <|
      setFlagBit 16 0 <| start)
    (fun s => trunc .b (s.readD 0) == 0x83 && s.cyclesTotal == 6) = true := by
  decide +kernel

/-- BC2 of spec/95_test_vectors.md: ABCD D1,D0. -/
theorem test_abcdR_BC2 :
    after (program [0xC101] <| setReg (.d 1) 0x01 <| setReg (.d 0) 0x99 <| setFlagBit 4 4 <|
      setFlagBit 16 16 <| start)
    (fun s => trunc .b (s.readD 0) == 0x01 && s.cyclesTotal == 6) = true := by
  decide +kernel

/-- BC10 of spec/95_test_vectors.md: ABCD -(A1),-(A0). -/
theorem test_abcdM_BC10 :
    after (program [0xC109] <| setReg (.a 1) 0x2012 <| setReg (.a 0) 0x2002 <| setFlagBit 16 0 <|
      putB 0x2011 0x34 <| putB 0x2001 0x12 <| noFc <| start)
    (fun s => s.readA 0 == 0x2001 && s.readA 1 == 0x2011 && valueAt s .b 0x2001 == 0x46 &&
      s.cyclesTotal == 18) = true := by
  decide +kernel

/-- DM18 of spec/95_test_vectors.md: EXG D0,D1. -/
theorem test_exgDD_DM18 :
    after (program [0xC141] <| setReg (.d 1) 2 <| setReg (.d 0) 1 <| start)
    (fun s => s.readD 0 == 2 && s.readD 1 == 1 && s.cyclesTotal == 6) = true := by
  decide +kernel

/-- DM19 of spec/95_test_vectors.md: EXG A0,A1. -/
theorem test_exgAA_DM19 :
    after (program [0xC149] <| setReg (.a 1) 0x20 <| setReg (.a 0) 0x10 <| start)
    (fun s => s.readA 0 == 0x20 && s.readA 1 == 0x10 && s.cyclesTotal == 6) = true := by
  decide +kernel

/-- DM20 of spec/95_test_vectors.md: EXG D0,A0. -/
theorem test_exgDA_DM20 :
    after (program [0xC188] <| setReg (.a 0) 0x5555 <| setReg (.d 0) 0xAAAA0000 <| start)
    (fun s => s.readD 0 == 0x00005555 && s.readA 0 == 0xAAAA0000 &&
      s.cyclesTotal == 6) = true := by
  decide +kernel

/-- SH8 of spec/95_test_vectors.md: ASR.B #8,D0. -/
theorem test_asrR_SH8 :
    after (program [0xE000] <| setReg (.d 0) 0x80 <| start)
    (fun s => s.readD 0 == 0xFF && s.sr.extractLsb' 0 5 == 0b11001 &&
      s.cyclesTotal == 22) = true := by
  decide +kernel

/-- SH9 of spec/95_test_vectors.md: ASR.B D1,D0. -/
theorem test_asrR_SH9 :
    after (program [0xE220] <| setReg (.d 1) 9 <| setReg (.d 0) 0x80 <| start)
    (fun s => s.readD 0 == 0xFF && s.sr.extractLsb' 0 5 == 0b11001 &&
      s.cyclesTotal == 24) = true := by
  decide +kernel

/-- SH31 of spec/95_test_vectors.md: ASR (A0). -/
theorem test_asrM_SH31 :
    after (program [0xE0D0] <| putW 0x2000 0x8001 <| setReg (.a 0) 0x2000 <| start)
    (fun s => wordAt s 0x2000 == 0xC000 && s.sr.extractLsb' 0 5 == 0b11001 &&
      s.cyclesTotal == 12) = true := by
  decide +kernel

/-- SH1 of spec/95_test_vectors.md: ASL.B #2,D0. -/
theorem test_aslR_SH1 :
    after (program [0xE500] <| setReg (.d 0) 0x20 <| start)
    (fun s => s.readD 0 == 0x80 && s.sr.extractLsb' 0 5 == 0b01010 &&
      s.cyclesTotal == 10) = true := by
  decide +kernel

/-- SH2 of spec/95_test_vectors.md: ASL.B #1,D0. -/
theorem test_aslR_SH2 :
    after (program [0xE300] <| setReg (.d 0) 0xC0 <| start)
    (fun s => s.readD 0 == 0x80 && s.sr.extractLsb' 0 5 == 0b11001 &&
      s.cyclesTotal == 8) = true := by
  decide +kernel

/-- SH30 of spec/95_test_vectors.md: ASL (A0). -/
theorem test_aslM_SH30 :
    after (program [0xE1D0] <| putW 0x2000 0x4000 <| setReg (.a 0) 0x2000 <| start)
    (fun s => wordAt s 0x2000 == 0x8000 && s.sr.extractLsb' 0 5 == 0b01010 &&
      s.cyclesTotal == 12) = true := by
  decide +kernel

/-- SH12 of spec/95_test_vectors.md: LSR.L D1,D0. -/
theorem test_lsrR_SH12 :
    after (program [0xE2A8] <| setReg (.d 1) 0x20 <| setReg (.d 0) 0x80000000 <| start)
    (fun s => s.readD 0 == 0x00000000 && s.sr.extractLsb' 0 5 == 0b10101 &&
      s.cyclesTotal == 72) = true := by
  decide +kernel

/-- SH13 of spec/95_test_vectors.md: LSR.L D1,D0. -/
theorem test_lsrR_SH13 :
    after (program [0xE2A8] <| setReg (.d 1) 0x21 <| setReg (.d 0) 0x80000000 <| start)
    (fun s => s.readD 0 == 0x00000000 && s.sr.extractLsb' 0 5 == 0b00100 &&
      s.cyclesTotal == 74) = true := by
  decide +kernel

/-- SH33 of spec/95_test_vectors.md: LSR (A0). -/
theorem test_lsrM_SH33 :
    after (program [0xE2D0] <| putW 0x2000 0x8001 <| setReg (.a 0) 0x2000 <| start)
    (fun s => wordAt s 0x2000 == 0x4000 && s.sr.extractLsb' 0 5 == 0b10001 &&
      s.cyclesTotal == 12) = true := by
  decide +kernel

/-- SH6 of spec/95_test_vectors.md: LSL.L D1,D0. -/
theorem test_lslR_SH6 :
    after (program [0xE3A8] <| setReg (.d 1) 0x20 <| setReg (.d 0) 0xFFFFFFFF <| start)
    (fun s => s.readD 0 == 0x00000000 && s.sr.extractLsb' 0 5 == 0b10101 &&
      s.cyclesTotal == 72) = true := by
  decide +kernel

/-- SH7 of spec/95_test_vectors.md: LSL.B D1,D0. -/
theorem test_lslR_SH7 :
    after (program [0xE328] <| setReg (.d 1) 9 <| setReg (.d 0) 0x12 <| start)
    (fun s => s.readD 0 == 0x00 && s.sr.extractLsb' 0 5 == 0b00100 &&
      s.cyclesTotal == 24) = true := by
  decide +kernel

/-- SH32 of spec/95_test_vectors.md: LSL (A0). -/
theorem test_lslM_SH32 :
    after (program [0xE3D0] <| putW 0x2000 0x8001 <| setReg (.a 0) 0x2000 <| start)
    (fun s => wordAt s 0x2000 == 0x0002 && s.sr.extractLsb' 0 5 == 0b10001 &&
      s.cyclesTotal == 12) = true := by
  decide +kernel

/-- SH22 of spec/95_test_vectors.md: ROXR.B #1,D0. -/
theorem test_roxrR_SH22 :
    after (program [0xE210] <| setReg (.d 0) 0x01 <| setFlagBit 16 0 <| start)
    (fun s => s.readD 0 == 0x00 && s.sr.extractLsb' 0 5 == 0b10101 &&
      s.cyclesTotal == 8) = true := by
  decide +kernel

/-- SH23 of spec/95_test_vectors.md: ROXR.W #2,D0. -/
theorem test_roxrR_SH23 :
    after (program [0xE450] <| setReg (.d 0) 0x0001 <| setFlagBit 16 0 <| start)
    (fun s => s.readD 0 == 0x8000 && s.sr.extractLsb' 0 5 == 0b01000 &&
      s.cyclesTotal == 10) = true := by
  decide +kernel

/-- SH34 of spec/95_test_vectors.md: ROXR (A0). -/
theorem test_roxrM_SH34 :
    after (program [0xE4D0] <| setFlagBit 16 0 <| putW 0x2000 0x1 <| setReg (.a 0) 0x2000 <| start)
    (fun s => wordAt s 0x2000 == 0x0000 && s.sr.extractLsb' 0 5 == 0b10101 &&
      s.cyclesTotal == 12) = true := by
  decide +kernel

/-- SH19 of spec/95_test_vectors.md: ROXL.W D1,D0. -/
theorem test_roxlR_SH19 :
    after (program [0xE370] <| setReg (.d 1) 0x11 <| setReg (.d 0) 0x1234 <| setFlagBit 16 16 <|
      start)
    (fun s => s.readD 0 == 0x1234 && s.sr.extractLsb' 0 5 == 0b10001 &&
      s.cyclesTotal == 40) = true := by
  decide +kernel

/-- SH20 of spec/95_test_vectors.md: ROXL.B #1,D0. -/
theorem test_roxlR_SH20 :
    after (program [0xE310] <| setReg (.d 0) 0x80 <| setFlagBit 16 0 <| start)
    (fun s => s.readD 0 == 0x00 && s.sr.extractLsb' 0 5 == 0b10101 &&
      s.cyclesTotal == 8) = true := by
  decide +kernel

/-- SH35 of spec/95_test_vectors.md: ROXL (A0). -/
theorem test_roxlM_SH35 :
    after (program [0xE5D0] <| setFlagBit 16 0 <| putW 0x2000 0x8000 <| setReg (.a 0) 0x2000 <| start)
    (fun s => wordAt s 0x2000 == 0x0000 && s.sr.extractLsb' 0 5 == 0b10101 &&
      s.cyclesTotal == 12) = true := by
  decide +kernel

/-- SH17 of spec/95_test_vectors.md: ROR.W D1,D0. -/
theorem test_rorR_SH17 :
    after (program [0xE278] <| setReg (.d 1) 0x20 <| setReg (.d 0) 0x8001 <| start)
    (fun s => s.readD 0 == 0x8001 && s.sr.extractLsb' 0 5 == 0b01001 &&
      s.cyclesTotal == 70) = true := by
  decide +kernel

/-- SH18 of spec/95_test_vectors.md: ROR.L #1,D0. -/
theorem test_rorR_SH18 :
    after (program [0xE298] <| setReg (.d 0) 0x00000001 <| start)
    (fun s => s.readD 0 == 0x80000000 && s.sr.extractLsb' 0 5 == 0b01001 &&
      s.cyclesTotal == 10) = true := by
  decide +kernel

/-- SH36 of spec/95_test_vectors.md: ROR (A0). -/
theorem test_rorM_SH36 :
    after (program [0xE6D0] <| setReg .sr 0x2700 <| putW 0x2000 0x1 <| setReg (.a 0) 0x2000 <| start)
    (fun s => wordAt s 0x2000 == 0x8000 && s.sr.extractLsb' 0 5 == 0b01001 &&
      s.cyclesTotal == 12) = true := by
  decide +kernel

/-- SH15 of spec/95_test_vectors.md: ROL.W D1,D0. -/
theorem test_rolR_SH15 :
    after (program [0xE378] <| setReg (.d 1) 0x10 <| setReg (.d 0) 0x1234 <| setReg .sr 0x2710 <|
      start)
    (fun s => s.readD 0 == 0x1234 && s.sr.extractLsb' 0 5 == 0b10000 &&
      s.cyclesTotal == 38) = true := by
  decide +kernel

/-- SH16 of spec/95_test_vectors.md: ROL.W #4,D0. -/
theorem test_rolR_SH16 :
    after (program [0xE958] <| setReg (.d 0) 0x1234 <| start)
    (fun s => s.readD 0 == 0x2341 && s.sr.extractLsb' 0 5 == 0b00001 &&
      s.cyclesTotal == 14) = true := by
  decide +kernel

/-- SH37 of spec/95_test_vectors.md: ROL (A0). -/
theorem test_rolM_SH37 :
    after (program [0xE7D0] <| setReg .sr 0x2710 <| putW 0x2000 0x8000 <| setReg (.a 0) 0x2000 <|
      start)
    (fun s => wordAt s 0x2000 == 0x0001 && s.sr.extractLsb' 0 5 == 0b10001 &&
      s.cyclesTotal == 12) = true := by
  decide +kernel

/-- SY30 of spec/95_test_vectors.md: word 0xA123. -/
theorem test_lineA_SY30 :
    after (program [0xA123] <| setReg .sr 0x2700 <| putL 0x28 0x760 <| start)
    (fun s => s.pc == 0x760 && s.cyclesTotal == 34) = true := by
  decide +kernel

/-- SY31 of spec/95_test_vectors.md: word 0xF200. -/
theorem test_lineF_SY31 :
    after (program [0xF200] <| setReg .sr 0x2700 <| putL 0x2C 0x770 <| start)
    (fun s => s.pc == 0x770 && s.cyclesTotal == 34) = true := by
  decide +kernel

/-- By hand from R383. -/
theorem test_bchgD :
    after (program [0x0340] <| setReg (.d 1) 3 <| setReg (.d 0) 8 <| start)
    (fun s => s.readD 0 == 0 && s.flagZ == false) = true := by
  decide +kernel

/-- By hand from R206. -/
theorem test_movepLM2R :
    after (program [0x0148, 0x0000] <| setReg (.a 0) 0x2000 <| putL 0x2000 0x11FF22FF <|
      putL 0x2004 0x33FF44FF <| start)
    (fun s => s.readD 0 == 0x11223344) = true := by
  decide +kernel

/-- By hand from R207. -/
theorem test_movepWR2M :
    after (program [0x0188, 0x0001] <| setReg (.a 0) 0x2000 <| setReg (.d 0) 0xAABBCCDD <| start)
    (fun s => valueAt s .b 0x2001 == 0xCC && valueAt s .b 0x2003 == 0xDD &&
      valueAt s .b 0x2002 == 0) = true := by
  decide +kernel

/-- By hand from R204. -/
theorem test_movemWR2M :
    after (program [0x4890, 0x0002] <| setReg (.a 0) 0x2000 <| setReg (.d 1) 0xAABBCCDD <| start)
    (fun s => wordAt s 0x2000 == 0xCCDD && wordAt s 0x2002 == 0) = true := by
  decide +kernel

/-- By hand from R205. -/
theorem test_movemLM2R :
    after (program [0x4CD0, 0x0204] <| setReg (.a 0) 0x2000 <| putL 0x2000 0x89ABCDEF <|
      putL 0x2004 0x01020304 <| start)
    (fun s => s.readD 2 == 0x89ABCDEF && s.readA 1 == 0x01020304) = true := by
  decide +kernel

/-- By hand from R262. -/
theorem test_subqB :
    after (program [0x5300] <| setReg (.d 0) 0x100 <| start)
    (fun s => s.readD 0 == 0x1FF && s.sr.extractLsb' 0 5 == 0b11001) = true := by
  decide +kernel

/-- By hand from R259. -/
theorem test_subDEa :
    after (program [0x9150] <| setReg (.a 0) 0x2000 <| putW 0x2000 5 <| setReg (.d 0) 7 <| start)
    (fun s => wordAt s 0x2000 == 0xFFFE && s.sr.extractLsb' 0 5 == 0b11001) = true := by
  decide +kernel

/-- By hand from R260. -/
theorem test_subaW :
    after (program [0x90C0] <| setReg (.a 0) 0x1000 <| setReg (.d 0) 0x8000 <| start)
    (fun s => s.readA 0 == 0x9000) = true := by
  decide +kernel

/-- By hand from R264. -/
theorem test_subxM :
    after (program [0x9109] <| setReg (.a 0) 0x2001 <| setReg (.a 1) 0x3001 <| putB 0x2000 5 <|
      putB 0x3000 2 <| setFlagBit 16 16 <| start)
    (fun s => valueAt s .b 0x2000 == 2 && s.readA 0 == 0x2000) = true := by
  decide +kernel

/-- By hand from R252. -/
theorem test_addDEa :
    after (program [0xD110] <| setReg (.a 0) 0x2000 <| putB 0x2000 0xFF <| setReg (.d 0) 1 <| start)
    (fun s => valueAt s .b 0x2000 == 0 && s.sr.extractLsb' 0 5 == 0b10101) = true := by
  decide +kernel

/-- By hand from R253. -/
theorem test_addaL :
    after (program [0xD1C0] <| setReg (.a 0) 0x1000 <| setReg (.d 0) 0x8000 <| start)
    (fun s => s.readA 0 == 0x9000) = true := by
  decide +kernel

/-- By hand from R325. -/
theorem test_orDEa :
    after (program [0x8150] <| setReg (.a 0) 0x2000 <| putW 0x2000 0x00F0 <| setReg (.d 0) 0x0F0F <|
      start)
    (fun s => wordAt s 0x2000 == 0x0FFF) = true := by
  decide +kernel

/-- By hand from R213. -/
theorem test_unlk :
    after (program [0x4E5E] <| setReg (.a 6) 0xFFC <| putL 0xFFC 0x5555 <| start)
    (fun s => s.readA 6 == 0x5555 && s.readA 7 == 0x1000) = true := by
  decide +kernel

/-- By hand from R404. -/
theorem test_sbcdM :
    after (program [0x8109] <| setReg (.a 0) 0x2001 <| setReg (.a 1) 0x3001 <| putB 0x2000 0x10 <|
      putB 0x3000 0x01 <| noFc <| start)
    (fun s => valueAt s .b 0x2000 == 0x09) = true := by
  decide +kernel

/-- By hand from R426. -/
theorem test_jmp :
    after (program [0x4ED0] <| setReg (.a 0) 0x600 <| start)
    (fun s => s.pc == 0x600 && s.readA 7 == 0x1000) = true := by
  decide +kernel

/-! ### Decimal results, apart from the open flags (R400; BC6, BC8, BC11) -/

theorem test_bcd_results :
    bcdResult .sbcd 0x00 0x00 true = (0x99, true) ∧ bcdResult .nbcd 0 0x99 false = (0x01, true) ∧
    bcdResult .nbcd 0 0x25 true = (0x74, true) ∧ bcdResult .abcd 0x01 0x99 true = (0x01, true) := by
  decide +kernel

/-! ### Boundaries -/

/-- R114, R522: an odd pc at a boundary ends the step in an address error, at a cost of 50. -/
theorem test_odd_pc :
    after (setReg .pc 0x401 start) (fun s => s.aerrAddress == 0x401 && s.aerrFc == 6 &&
      s.cyclesTotal == 50 && s.lastEnd == .addressFault) = true := by
  decide +kernel

/-- R540, R544: level 5 above mask 3 is taken, through its autovector. -/
theorem test_interrupt :
    after (setIrq 5 <| putL 0x74 0x950 <| setReg .sr 0x2300 start)
    (fun s => s.pc == 0x950 && s.sr == 0x2500 && s.readA 7 == 0xFFA && s.cyclesTotal == 44) =
      true := by
  decide +kernel

/-- R541: level 7 is taken once, over mask 7. -/
theorem test_nmi :
    after (setIrq 7 <| putL 0x7C 0x970 start)
    (fun s => s.pc == 0x970 && s.nmiPending == false && pendingLevel s == none) = true := by
  decide +kernel

/-- R530: a traced NOP is followed by vector 9. -/
theorem test_trace :
    after (program [0x4E71] <| putL 0x24 0x800 <| setReg .sr 0xA700 start)
    (fun s => s.pc == 0x800 && s.sr == 0x2700 && valueAt s .l 0xFFC == 0x402 &&
      s.cyclesTotal == 38) = true := by
  decide +kernel

/-- R525: an odd SSP at an exception entry is a double fault. -/
theorem test_double_fault :
    after (program [0x4AFC] <| setReg .isp 0xFFF start)
    (fun s => s.doubleFault && s.halted) = true := by
  decide +kernel

/-- R572: a stopped core charges what is left of its budget. -/
theorem test_stopped :
    after { start with stopped := true, budget := 100, cyclesRun := 30 }
    (fun s => s.cyclesRun == 100 && s.pc == 0x400 && s.lastEnd == .idle) = true := by
  decide +kernel

/-- R601: pulse_reset on a vector of SSP 0x1000 and PC 0x400. -/
theorem test_pulse_reset :
    endsWell (fun s => s.ssp == 0x1000 && s.pc == 0x400 && s.sr == 0x2705 && s.cyclesTotal == 40)
      (pulseReset <| putL 0 0x1000 <| putL 4 0x400 { start with sr := 0x0005 }) = true := by
  decide +kernel

/-- R630, R643: a NOP costs the entry of the table CYCLES that the configuration holds. -/
theorem test_cycles_parameter :
    after (program [0x4E71] { start with cfg.cycles.misc.nop := 7 })
      (fun s => s.cyclesTotal == 7 && s.pc == 0x402) = true := by
  decide +kernel

/-- R614: a level delayed by the RESET callback is still to come after the RESET instruction. -/
theorem test_irq_delay_from_a_callback :
    after (program [0x4E70] { start with
        handlers := { resetInstr := .host }
        script := [{ value := 0, moves := [.setIrqDelay 7] }] })
      (fun s => s.delayedIrq == some (7, 1) && s.intLevel == 0 && !s.nmiPending) = true := by
  decide +kernel

/-- R567, R614: the next instruction runs and is counted, and the boundary after it is the first
that sees the level. -/
theorem test_irq_delay_one_more :
    after (program [0x4E71] { start with delayedIrq := some (7, 1) })
      (fun s => s.pc == 0x402 && s.delayedIrq == some (7, 0) && s.intLevel == 0) = true ∧
    after (putL 0x7C 0x970 { start with delayedIrq := some (7, 0) })
      (fun s => s.pc == 0x970 && s.intLevel == 7 && s.delayedIrq == none) = true := by
  decide +kernel

/-- R569: an install_* replaces its callback and keeps the other three. -/
theorem test_install_one_callback :
    (installTasInstr .host (installIntAck .host start)).handlers =
      { intAck := .host, resetInstr := .default, tasInstr := .host, fcChange := .default } ∧
    (installFcChange .host (installResetInstr .host (installTasInstr .host start))).handlers =
      { intAck := .default, resetInstr := .host, tasInstr := .host, fcChange := .host } ∧
    (installTasInstr .default (installTasInstr .host start)).handlers = start.handlers := by
  decide +kernel

/-- R584: an install_* inside a callback is a fault that names it. -/
theorem test_install_inside_a_callback :
    (match step (program [0x4E70] { start with
        handlers := { resetInstr := .host }
        script := [{ value := 0, moves := [.other .installIntAck] }] }) with
      | .fault f => f == .hostCallInCallback .installIntAck
      | _ => false) = true := by
  decide +kernel

/-- R580: the second run of a branch to itself sets the flag that `idle_detected` reads. -/
theorem test_idle_detected :
    after (program [0x60FE] { start with
        idlePc := 0x400, idleCycle := 0, cfg.idleDetect := true }) idleDetected = true ∧
    after (program [0x60FE] { start with
        idlePc := 0x400, idleCycle := 4, cfg.idleDetect := true }) (!idleDetected ·) = true := by
  decide +kernel

/-- R103, R104: a long through hooks is two calls, high word first, and takes two answers. -/
theorem test_hook_long :
    after (program [0x2010] <| setReg (.a 0) 0x7F020000 { start with
        map := start.map.set 2 (.callbacks false true false false), calls := []
        script := [{ value := 0x11112222, moves := [] }, { value := 0x3333, moves := [] }] })
      (fun s => s.readD 0 == 0x22223333 && s.script == [] && s.fc == 5 &&
        s.calls.drop (s.calls.length - 2) == [.read16 0x020000, .read16 0x020002]) = true := by
  decide +kernel

/-! ### The statements' hypotheses can be met -/

/-- A state with places for operands, in user and in supervisor state alike. -/
def place : State :=
  program [0x0004, 0x3008] <| setReg (.a 0) 0x2000 <| setReg (.a 1) 0x3004 <|
    setReg (.a 7) 0x1000 <| setReg .usp 0x800 <| setReg (.d 1) 3 start

/-- The same with an odd address in A0. -/
def oddPlace : State := place.writeA 0 0x2001

/-- The same with regions 1 and 3 unmapped and region 2 behind two of its four hooks. -/
def holes : State :=
  { place with map := ((place.map.set 1 .unmapped).set 2
    (.callbacks false true true false)).set 3 .unmapped }

theorem test_witness_DecodeOfEncode :
    Instr.wf (.moveL .imm .absL) = true ∧ Instr.wf (.bcc .le 0xFF) = true ∧
    Instr.wf (.lineF 0xFFF) = true ∧ Instr.wf (.addqWL 0 .l (.areg 7)) = true := by
  decide

theorem test_witness_EncodeOfDecode :
    decode 0x4E71 = .ok .nop ∧ decode 0x4E7A = .error .unassigned ∧
    decode 0xFFFF = .ok (.lineF 0xFFF) := ⟨rfl, rfl, rfl⟩

theorem test_witness_ShiftAndRotateRules :
    (1 ≤ 1 ∧ 1 < 64) ∧ (1 ≤ 63 ∧ 63 < 64) ∧ trunc .b 0xFF = 0xFF ∧ trunc .w 0x8001 = 0x8001 ∧
    trunc .l 0x80000001 = 0x80000001 := by
  decide

theorem test_witness_DecimalResults : bcdValid 0x99 = true ∧ bcdValid 0x00 = true := by
  decide

theorem test_witness_MultiplyAndDivide :
    divuResult 7 2 = some (1, 3) ∧ divuResult 0xFFFEFFFF 0xFFFF = some (0xFFFE, 0xFFFF) ∧
    divuResult 0x10000 1 = none ∧ divsResult 0xFFFFFFF9 2 = some (0xFFFF, 0xFFFD) ∧
    divsResult 0xFFFF8000 1 = some (0, 0x8000) ∧ divsResult 0x8000 1 = none := by
  decide +kernel

theorem test_witness_RegisterWrites :
    (6 : Reg) ≠ 7 ∧ start.flagS = true ∧ (setReg .sr 0 start).flagS = false := by
  decide +kernel

theorem test_witness_StoreThenLoad :
    quiet place = true ∧ place.mem.wf = true ∧ accessible place .l 0xFFFFFFFE = true ∧
    clearOf place.pc 0xFFFFFFFE .l = true ∧ clearOf place.pc 0x3FF .b = true ∧
    accessible place .b 0x3FF = true ∧ clearOf place.pc 0x404 .w = true ∧
    fetchable place place.pc 1 = true := by
  decide +kernel

/-- A completed access of each kind; a word and a byte access through hooks, at the ends of their
region, with an answer to come and without; an even long. -/
theorem test_witness_StoreThenLoad_hooks :
    endsWell (fun t => t.fc == 5) (memRead .instruction .w 0x20000 holes) = true ∧
    endsWell (fun t => t.fc == 5) (memWrite .exception .l 0xFFFFFC 7 holes) = true ∧
    endsWell (fun t => t.fc == 6) (memReadPc .b 0xFFFF holes) = true ∧
    endsWell (fun t => t.fc == 6) (fetchWord holes) = true ∧
    holes.handlers.fcChange = .default ∧ holes.script = [] ∧
    misaligned .w 0x2FFFE = false ∧ hooked holes .w .read 0x2FFFE = true ∧
    hooked holes .w .read 0x20000 = true ∧ hooked holes .b .write 0x2FFFF = true ∧
    hooked holes .b .write 0x20000 = true ∧ hooked holes .w .write 0x20000 = false ∧
    clearOf holes.pc 0x2FFFF .b = true ∧ misaligned .l 0xFFFFFFFE = false ∧
    endsWell (fun t => t.intLevel == 3)
      (applyMoves [.setIrq 3] { holes with script := [{ value := 9, moves := [.setIrq 3] }] }) =
        true := by
  decide +kernel

theorem test_witness_OperandsResolveAndRead :
    quiet place = true ∧ readable place .l (.postInc 0) = true ∧
    readable place .b .pcIndex = true ∧ readable place .l .imm = true ∧
    readable place .b (.areg 7) = true := by
  decide +kernel

/-- The largest and the smallest odd addresses, a word and a long; both operand directions; the
largest odd pc. -/
theorem test_witness_OddAddressesAreAddressErrors :
    (Size.w ≠ .b ∧ Size.l ≠ .b ∧ (0xFFFFFFFF : Long).getLsbD 0 = true ∧
      (1 : Long).getLsbD 0 = true) ∧
    endsOdd (memRead .instruction .l 0xFFFFFFFF place) = true ∧
    endsOdd (memWrite .exception .w 1 5 place) = true ∧
    quiet oddPlace = true ∧ resolvable oddPlace .w (.ind 0) = true ∧
    inMemory (.ind 0) = true ∧ misaligned .w (eaAddr oddPlace .w (.ind 0)) = true ∧
    resolvable oddPlace .l (.postInc 0) = true ∧
    misaligned .l (eaAddr oddPlace .l (.postInc 0)) = true ∧
    (setReg .pc 0xFFFFFF place).pc.getLsbD 0 = true := by
  decide +kernel

/-- Accesses at the edges of a region that is absent and of one without read hooks: a byte and a
word in it, and a long whose second half is. -/
theorem test_witness_ModelFaultsOfAccesses_data :
    quiet holes = true ∧ misaligned .l 0xFFFE = false ∧ misaligned .b 0x1FFFF = false ∧
    serves (holes.region (busAddr 0x10000)) .w .read = false ∧
    serves (holes.region (busAddr 0x1FFFF)) .b .write = false ∧
    serves (holes.region (busAddr 0x20000)) .b .read = false ∧
    serves (holes.region (busAddr 0x20000)) .b .write = true ∧
    serves (holes.region (busAddr 0x20000)) .w .write = false ∧
    serves (holes.region (busAddr 0x20000)) .l .read = true ∧
    (backed holes 0xFFFE = true ∧ holes.script = []) ∧
    serves (holes.region (busAddr 0xFFFE)) .l .read = true ∧
    serves (holes.region (busAddr (0xFFFE + 2))) .l .read = false ∧
    serves (holes.region (busAddr 0x2FFFE)) .l .read = true ∧
    serves (holes.region (busAddr (0x2FFFE + 2))) .l .read = false ∧
    serves (holes.region (busAddr 0xFFFE)) .l .write = true ∧
    serves (holes.region (busAddr (0xFFFE + 2))) .l .write = false := by
  decide +kernel

/-- PC-relative reads and fetches: an odd word and an odd long, a long whose second half is not
backed, and a pc in a region behind hooks. -/
theorem test_witness_ModelFaultsOfAccesses_program :
    quiet holes = true ∧ misaligned .w 0x2001 = true ∧ misaligned .l 0xFFFFFFFF = true ∧
    misaligned .b 0x2FFFF = false ∧ backed holes 0x10000 = false ∧ backed holes 0x2FFFF = false ∧
    misaligned .l 0xFFFE = false ∧ backed holes 0xFFFE = true ∧
    backed holes (0xFFFE + 2) = false ∧
    backed (holes.setPc 0x20000) (holes.setPc 0x20000).pc = false ∧
    (holes.setPc 0x20000).pc.getLsbD 0 = false := by
  decide +kernel

/-- Stores with their first byte at the window's last address, at its first, and, of a word and of
a long, below it. -/
theorem test_witness_ModelFaultsOfAccesses_window :
    quiet holes = true ∧ misaligned .b 0x403 = false ∧ misaligned .l 0x3FE = false ∧
    serves (holes.region (busAddr 0x3FE)) .l .write = true ∧
    accessible holes .b 0x403 = true ∧ accessible holes .l 0x3FE = true ∧
    accessible holes .w 0x402 = true ∧
    (bytesFrom 0x403 1).find? (inWindow holes.pc) = some 0x403 ∧
    (bytesFrom 0x402 2).find? (inWindow holes.pc) = some 0x402 ∧
    (bytesFrom 0x3FE 4).find? (inWindow holes.pc) = some 0x400 ∧
    (bytesFrom 0x3FE 2).find? (inWindow holes.pc) = none ∧
    (bytesFrom 0x404 1).find? (inWindow holes.pc) = none := by
  decide +kernel

/-- JSR and BSR whose pushed address meets the first words of the target: its last byte and its
first. -/
theorem test_witness_ModelFaultsOfAccesses_target :
    quiet holes = true ∧ EA.inClass .ctrl (.ind 0) = true ∧
    (let s := setReg (.a 0) 0xFFF holes
     resolvable s .l (.ind 0) = true ∧
     storable s (afterEa s .l (.ind 0)).pc .l (s.activeSp - 4) = true ∧
     (bytesFrom (s.activeSp - 4) 4).find? (inWindow (eaAddr s .l (.ind 0))) = some 0xFFF) ∧
    fetchable holes holes.pc 1 = true ∧
    (let s := setReg (.a 7) 0x40A holes
     storable s (skipWords 1 s).pc .l (s.activeSp - 4) = true ∧
     wordAt s s.pc = 4 ∧
     (bytesFrom (s.activeSp - 4) 4).find? (inWindow (s.pc + 4)) = some 0x406) ∧
    storable holes holes.pc .l (holes.activeSp - 4) = true := by
  decide +kernel

theorem test_witness_MoveCopiesTheOperand :
    quiet place = true ∧ EA.inClass .dalt (.preDec 1) = true ∧
    ((Instr.moveL (.postInc 0) (.preDec 1), Size.l) ∈
      [(.moveB (.postInc 0) (.preDec 1), Size.b), (.moveW (.postInc 0) (.preDec 1), .w),
        (.moveL (.postInc 0) (.preDec 1), .l)]) ∧
    readable place .l (.postInc 0) = true ∧
    writable (afterEa place .l (.postInc 0)) .l (.preDec 1) = true ∧
    writable (afterEa place .b .imm) .b (.disp 0) = true := by
  decide +kernel

theorem test_witness_AddressRegisterOperations :
    quiet place = true ∧ readable place .w (.preDec 7) = true ∧ readable place .l .imm = true := by
  decide +kernel

theorem test_witness_MovemStoresRegisters :
    quiet place = true ∧ place.mem.wf = true ∧ EA.inClass .movemRM (.preDec 7) = true ∧
    EA.inClass .movemRM (.disp 0) = true ∧ fetchable place place.pc 1 = true ∧
    storableList place (skipWords 1 place).pc .l (place.readA 7 - 4) 1 = true ∧
    resolvable (skipWords 1 place) .w (.disp 0) = true ∧
    storableList place (afterEa (skipWords 1 place) .w (.disp 0)).pc .w
      (eaAddr (skipWords 1 place) .w (.disp 0)) 1 = true := by
  decide +kernel

theorem test_witness_MovemLoadsRegisters :
    quiet place = true ∧ EA.inClass .movemMR (.postInc 0) = true ∧
    EA.inClass .movemMR .pcDisp = true ∧ fetchable place place.pc 1 = true ∧
    readableList place .l (place.readA 0) 1 = true ∧
    accessible place .w (elementAddr .l (place.readA 0) 1) = true ∧
    resolvable (skipWords 1 place) .w .pcDisp = true ∧
    readableList place .w (eaAddr (skipWords 1 place) .w .pcDisp) 1 = true := by
  decide +kernel

theorem test_witness_MovepMovesAlternateBytes :
    quiet place = true ∧ fetchable place place.pc 1 = true ∧
    ((List.range 4).all fun k => backed place (alternateAddr 0x2004 k)) = true ∧
    ((List.range 4).all fun k => storable place 0x402 .b (alternateAddr 0x2004 k)) = true ∧
    ((List.range 2).all fun k => storable place 0x402 .b (alternateAddr 0xFFFFFF k)) = true := by
  decide +kernel

theorem test_witness_EffectiveAddressInstructions :
    quiet place = true ∧ EA.inClass .ctrl (.index 1) = true ∧
    resolvable place .l (.index 1) = true ∧ EA.inClass .ctrl .pcDisp = true ∧
    resolvable place .l .pcDisp = true ∧
    storable place (afterEa place .l .pcDisp).pc .l (place.activeSp - 4) = true := by
  decide +kernel

theorem test_witness_LinkAndUnlink :
    quiet place = true ∧ fetchable place place.pc 1 = true ∧
    storable place (place.pc + 2) .l (place.activeSp - 4) = true ∧
    accessible place .l (place.readA 7) = true ∧ accessible place .l (place.readA 0) = true := by
  decide +kernel

theorem test_witness_OperandToDataRegister :
    quiet place = true ∧ readable place .b (.postInc 7) = true ∧
    readable place .l .pcDisp = true := by
  decide +kernel

theorem test_witness_ComparesAndTest :
    quiet place = true ∧ readable place .w (.index 0) = true ∧
    fetchable place place.pc (immWords .l) = true ∧
    readable (skipWords (immWords .l) place) .l (.preDec 7) = true ∧
    readable place .b (.postInc 7) = true ∧
    readable (afterEa place .b (.postInc 7)) .b (.postInc 7) = true := by
  decide +kernel

theorem test_witness_DataRegisterToOperand :
    quiet place = true ∧ EA.inClass .dalt (.dreg 7) = true ∧ writable place .w (.dreg 7) = true ∧
    EA.inClass .malt (.disp 0) = true ∧ EA.inClass .dalt (.disp 0) = true ∧
    writable place .l (.disp 0) = true := by
  decide +kernel

theorem test_witness_ImmediateToOperand :
    quiet place = true ∧ EA.inClass .dalt .absL = true ∧
    fetchable place place.pc (immWords .l) = true ∧
    writable (skipWords (immWords .l) place) .l .absL = true ∧
    writable (skipWords (immWords .b) place) .b (.dreg 0) = true := by
  decide +kernel

theorem test_witness_QuickArithmetic :
    Size.w ≠ .b ∧ quiet place = true ∧ EA.inClass .dalt (.preDec 7) = true ∧
    writable place .b (.preDec 7) = true := by
  decide +kernel

theorem test_witness_ExtendedRegisterForms : BcdOp.abcd ≠ .nbcd ∧ BcdOp.sbcd ≠ .nbcd := by
  decide

theorem test_witness_ExtendedMemoryForms :
    quiet place = true ∧ readable place .b (.preDec 0) = true ∧
    writable (afterEa place .b (.preDec 0)) .b (.preDec 0) = true ∧
    readable place .l (.preDec 7) = true ∧
    writable (afterEa place .l (.preDec 7)) .l (.preDec 1) = true ∧ BcdOp.sbcd ≠ .nbcd := by
  decide +kernel

theorem test_witness_UnaryOperations :
    quiet place = true ∧ EA.inClass .dalt (.postInc 7) = true ∧
    writable place .b (.postInc 7) = true ∧ writable place .l (.disp 0) = true := by
  decide +kernel

theorem test_witness_MultiplyAndDivideInstructions :
    quiet place = true ∧ readable place .w .imm = true ∧
    (operand place .w .imm).setWidth 16 ≠ (0 : Word) ∧
    divuResult (place.readD 1) ((operand place .w .imm).setWidth 16) = some (3, 0) ∧
    divsResult (place.readD 1) ((operand place .w .imm).setWidth 16) = some (3, 0) ∧
    divuResult ((setReg (.d 1) 0xFFFFFFFF place).readD 1) 4 = none ∧
    divsResult ((setReg (.d 1) 0x7FFFFFFF place).readD 1) 4 = none := by
  decide +kernel

theorem test_witness_ZeroDivideAndCheck :
    quiet place = true ∧ readable place .w (.dreg 0) = true ∧ operand place .w (.dreg 0) = 0 ∧
    canEnter 5 (afterEa place .w (.dreg 0)) = true ∧
    readable place .w (.preDec 7) = true ∧ operand place .w (.preDec 7) = 0 ∧
    canEnter 5 (afterEa place .w (.preDec 7)) = true ∧
    canEnter 6 (afterEa place .w (.preDec 7)) = true ∧
    signedOf .w ((setReg (.d 1) 0x8000 place).readD 1) < 0 ∧
    signedOf .w (operand place .w (.dreg 0)) < signedOf .w (place.readD 1) ∧
    0 ≤ signedOf .w (place.readD 0) ∧
    signedOf .w (place.readD 0) ≤ signedOf .w (operand place .w (.dreg 0)) := by
  decide +kernel

theorem test_witness_ShiftRegisterForms :
    (place.readD 1).toNat % 64 ≠ 0 ∧ (place.readD 0).toNat % 64 = 0 ∧
    (setReg (.d 0) 64 place |>.readD 0).toNat % 64 = 0 := by
  decide +kernel

theorem test_witness_ShiftMemoryForms :
    quiet place = true ∧ EA.inClass .malt (.postInc 0) = true ∧
    writable place .w (.postInc 0) = true := by
  decide +kernel

theorem test_witness_BitOperations :
    quiet place = true ∧ fetchable place place.pc 1 = true ∧ EA.inClass .data .pcDisp = true ∧
    readable (skipWords 1 place) .b .pcDisp = true ∧ EA.inClass .data .imm = true ∧
    readable place .b .imm = true ∧ EA.inClass .dalt (.dreg 0) = true ∧
    writable place .l (.dreg 0) = true ∧ EA.inClass .dalt (.preDec 7) = true ∧
    writable (skipWords 1 place) .b (.preDec 7) = true := by
  decide +kernel

theorem test_witness_TestAndSet :
    EA.inClass .dalt (.ind 0) = true ∧ isDreg (.ind 0) = false ∧ isDreg (.dreg 0) = true ∧
    quiet { place with handlers := { place.handlers with tasInstr := .default } } = true ∧
    writable place .b (.ind 0) = true ∧ place.handlers.tasInstr = .default ∧
    { place with handlers := { tasInstr := .host } }.handlers.tasInstr = .host := by
  decide +kernel

theorem test_witness_Branches :
    quiet place = true ∧ fetchable place place.pc 1 = true ∧
    condHolds place.flags .ne = true ∧ condHolds place.flags .eq = false := by
  decide +kernel

theorem test_witness_SetByCondition :
    quiet place = true ∧ EA.inClass .dalt (.preDec 7) = true ∧
    writable place .b (.preDec 7) = true := by
  decide +kernel

theorem test_witness_JumpsCallsAndReturns :
    quiet place = true ∧ EA.inClass .ctrl (.ind 0) = true ∧ resolvable place .l (.ind 0) = true ∧
    storable place (afterEa place .l (.ind 0)).pc .l (place.activeSp - 4) = true ∧
    clearOf (eaAddr place .l (.ind 0)) (place.activeSp - 4) .l = true ∧
    fetchable place place.pc 1 = true ∧
    storable place (skipWords 1 place).pc .l (place.activeSp - 4) = true ∧
    clearOf (place.pc + 4) (place.activeSp - 4) .l = true ∧
    accessible place .l place.activeSp = true ∧ accessible place .w place.activeSp = true ∧
    accessible place .l (place.activeSp + 2) = true ∧ place.flagV = false := by
  decide +kernel

theorem test_witness_ConditionCodeOperations :
    quiet place = true ∧ fetchable place place.pc 1 = true ∧ readable place .w .imm = true ∧
    EA.inClass .dalt (.disp 0) = true ∧ writable place .w (.disp 0) = true := by
  decide +kernel

theorem test_witness_PrivilegedInSupervisorState :
    quiet place = true ∧ place.flagS = true ∧ fetchable place place.pc 1 = true ∧
    readable place .w .imm = true ∧ accessible place .w place.ssp = true ∧
    accessible place .l (place.ssp + 2) = true := by
  decide +kernel

theorem test_witness_PrivilegeViolation :
    quiet (setReg .sr 0 place) = true ∧ (setReg .sr 0 place).flagS = false ∧
    isPrivileged .stop = true ∧ isPrivileged (.moveFromUsp 7) = true ∧
    canEnter 8 (setReg .sr 0 place) = true := by
  decide +kernel

theorem test_witness_TrapsAndIllegalWords :
    quiet place = true ∧ canEnter 32 place = true ∧ canEnter 47 place = true ∧
    (setReg .sr 2 place).flagV = true ∧ canEnter 7 (setReg .sr 2 place) = true ∧
    canEnter 4 place = true ∧ canEnter 10 place = true ∧ canEnter 11 place = true ∧
    (decode 0x4E7A).toOption = none := by
  decide +kernel

theorem test_witness_ExceptionEntry :
    quiet place = true ∧ place.mem.wf = true ∧ canEnter 255 place = true ∧
    canEnter 0 place = true := by
  decide +kernel

theorem test_witness_ReturnUndoesEntry :
    quiet place = true ∧ place.mem.wf = true ∧ canEnter 32 (setReg .sr 0x8704 place) = true ∧
    (setReg .sr 0x8704 place).sr &&& ~~~srMask = 0 ∧
    endsWell (fun t => t.flagS) (exceptionEntry 32 0x402 none (setReg .sr 0x8704 place)) = true := by
  decide +kernel

theorem test_witness_AddressErrorProcessing :
    quiet place.takeSaved = true ∧ place.takeSaved.mem.wf = true ∧
    place.takeSaved.runMode = .normal ∧
    accessible place.takeSaved .l (place.takeSaved.saved.ssp - 4) = true ∧
    accessible place.takeSaved .w (place.takeSaved.saved.ssp - 6) = true ∧
    accessible place.takeSaved .w (place.takeSaved.saved.ssp - 8) = true ∧
    accessible place.takeSaved .l (place.takeSaved.saved.ssp - 12) = true ∧
    accessible place.takeSaved .w (place.takeSaved.saved.ssp - 14) = true ∧
    accessible place.takeSaved .l 12 = true := by
  decide +kernel

theorem test_witness_AddressErrorRollsBack :
    ends (fun t => t.lastEnd == .addressFault && !t.doubleFault)
      (exec (.clr .w (.ind 0)) oddPlace.takeSaved) = true := by
  decide +kernel

theorem test_witness_DoubleFault : (setReg .isp 0xFFF place).ssp.getLsbD 0 = true := by
  decide +kernel

theorem test_witness_StepRunsTheDecodedInstruction :
    (applyDelayed (program [0x4E71] place).takeSaved).halted = false ∧
    pendingLevel (applyDelayed (program [0x4E71] place).takeSaved) = none ∧
    (applyDelayed (program [0x4E71] place).takeSaved).stopped = false ∧
    quiet (applyDelayed (program [0x4E71] place).takeSaved) = true ∧
    fetchable (program [0x4E71] place) 0x400 1 = true ∧
    wordAt (program [0x4E71] place) 0x400 = 0x4E71 := by
  decide +kernel

theorem test_witness_AfterTheInstruction :
    traceDue place = false ∧ quiet { place with tracePending := true } = true ∧
    canEnter 9 { place with tracePending := true } = true ∧
    { place with lastEnd := .completed }.lastEnd = .completed ∧ place.cfg.idleDetect = true := by
  decide +kernel

theorem test_witness_InterruptsTakeTheirVector :
    quiet (setIrq 7 place) = true ∧ (setIrq 7 place).halted = false ∧
    pendingLevel (setIrq 7 place) = some 7 ∧ canEnter 31 (setIrq 7 place) = true ∧
    pendingLevel (setIrq 1 (setReg .sr 0x2000 place)) = some 1 ∧
    { place with handlers := { intAck := .host } }.handlers = { intAck := .host } ∧
    (0xFFFFFFFE : Long) ≠ 0xFFFFFFFF ∧ 256 ≤ (256 : Long).toNat ∧
    (256 : Long) ≠ 0xFFFFFFFE ∧ (256 : Long) ≠ 0xFFFFFFFF := by
  decide +kernel

theorem test_witness_IdleStepsOnlyCharge :
    (applyDelayed { place with haltPin := true }.takeSaved).halted = true ∧
    pendingLevel (applyDelayed { place with stopped := true }.takeSaved) = none ∧
    (applyDelayed { place with stopped := true }.takeSaved).stopped = true := by
  decide +kernel

theorem test_witness_Inv : Inv (program [0x4E71] place) := by
  constructor <;> decide +kernel

theorem test_witness_step_answers :
    ends (fun t => t.lastEnd == .completed) (step (program [0x4E71] place)) = true := by
  decide +kernel

theorem test_witness_UserStateIsConfined :
    (setReg .sr 0 place).flagS = false ∧
    ends (fun t => t.lastEnd == .completed)
      (exec (.moveL (.postInc 0) (.preDec 1)) (setReg .sr 0 place)) = true := by
  decide +kernel

theorem test_witness_RegisterFrame :
    ends (fun t => t.lastEnd == .completed) (exec (.addDEa 1 .l (.preDec 0)) place) = true ∧
    mayWriteD (.addDEa 1 .l (.preDec 0)) 1 = false ∧
    mayWriteA (.addDEa 1 .l (.preDec 0)) 1 = false ∧
    mayWriteA (.addDEa 1 .l (.preDec 0)) 7 = false ∧ place.flagS = true ∧
    (setReg .sr 0 place).flagS = false ∧
    ends (fun t => t.lastEnd == .completed)
      (exec (.addDEa 1 .l (.preDec 0)) (setReg .sr 0 place)) = true := by
  decide +kernel

theorem test_witness_StatusFrame :
    ends (fun t => t.lastEnd == .completed) (exec (.bsetD 1 (.dreg 0)) place) = true ∧
    changesZOnly (.bsetD 1 (.dreg 0)) = true ∧ writesSr (.bsetD 1 (.dreg 0)) = false ∧
    mayChangeX (.bsetD 1 (.dreg 0)) = false ∧ keepsFlags (.lea 0 (.ind 1)) = true ∧
    ends (fun t => t.lastEnd == .completed) (exec (.lea 0 (.ind 1)) place) = true := by
  decide +kernel

theorem test_witness_SpecialStateFrame :
    place.script = [] ∧
    ends (fun t => t.lastEnd == .completed) (exec (.notEa .b (.ind 0)) place) = true := by
  decide +kernel

theorem test_witness_MemoryFrame :
    place.script = [] ∧
    ends (fun t => t.lastEnd == .completed) (exec (.movepLR2M 1 0) place) = true ∧
    storeSites (.movepLR2M 1 0) place = [(.b, 0x2004), (.b, 0x2006), (.b, 0x2008), (.b, 0x200A)] ∧
    storeSites (.tst .w (.ind 0)) place = [] := by
  decide +kernel

theorem test_witness_HostAccessToState :
    place.sr &&& ~~~srMask = 0 := by
  decide +kernel

theorem test_witness_PulseReset :
    quiet place = true ∧ backed place 0 = true ∧ place.cfg.fcEmulation = true ∧
    backed { place with map := place.map.set 0 .unmapped } 0 = false ∧
    quiet { place with map := place.map.set 0 .unmapped } = true := by
  decide +kernel


end Sys2Proof.Tests
end

section
/-!
SUPPORT. What every part of a step keeps: `Steady` says what no part of any step changes or breaks,
`Traced` and `ModeKept` what accesses and exception entries keep besides, `Sound` and `Settled` what
the end of a part keeps; `Runs P x` says that `x` does no more than `P` allows when it ends, and no
more than `Traced` at an address error.
-/

namespace Sys2Proof.Machine

variable {α β : Type} {w : List Addr} {s t u : State}

/-! ### SR without its unimplemented bits (R47) -/

/-- The unimplemented bits of SR are outside the condition codes: they are those of `SR[15:5]`. -/
theorem unimplemented_eq (r : Word) :
    r &&& ~~~srMask = (r.extractLsb' 5 11 ++ 0#5) &&& ~~~srMask := by
  ext i hi
  simp only [srMask, BitVec.getElem_and, BitVec.getElem_append]
  split
  · have : i = 0 ∨ i = 1 ∨ i = 2 ∨ i = 3 ∨ i = 4 := by omega
    rcases this with rfl | rfl | rfl | rfl | rfl <;> simp
  · simp [show 5 + (i - 5) = i by omega, BitVec.getLsbD_eq_getElem hi]

/-- No unimplemented bit of SR or of its rollback copy is set (R47, R72). -/
def SrValid (s : State) : Prop := s.sr &&& ~~~srMask = 0 ∧ s.saved.sr &&& ~~~srMask = 0

theorem masked_valid (v : Word) : v &&& srMask &&& ~~~srMask = 0 := by
  rw [BitVec.and_assoc]
  simp

/-- GROUP0 lasts only in a double fault (R62, R525). -/
def ModeValid (s : State) : Prop := s.runMode = .group0 → s.doubleFault = true

/-! ### What every part of a step keeps -/

/-- What no part of a step changes: the host's callbacks and map, the parameters, the prefetch
registers and the budget; what it only raises: the cycle counters and the count of draws; and what
it keeps true: memory in canonical form, SR without unimplemented bits, a legal FC (R72). -/
structure Steady (s t : State) : Prop where
  handlers : t.handlers = s.handlers
  map : t.map = s.map
  cfg : t.cfg = s.cfg
  prefAddr : t.prefAddr = s.prefAddr
  prefData : t.prefData = s.prefData
  budget : t.budget = s.budget
  total : s.cyclesTotal ≤ t.cyclesTotal
  run : s.cyclesRun ≤ t.cyclesRun
  draws : s.draws ≤ t.draws
  wf : s.mem.wf = true → t.mem.wf = true
  sr : SrValid s → SrValid t
  fc : (s.cfg.fcEmulation = true → legalFc s.fc = true) →
    t.cfg.fcEmulation = true → legalFc t.fc = true

theorem Steady.refl (s : State) : Steady s s :=
  ⟨rfl, rfl, rfl, rfl, rfl, rfl, le_rfl, le_rfl, le_rfl, id, id, id⟩

theorem Steady.trans (h : Steady s t) (k : Steady t u) : Steady s u where
  handlers := k.handlers.trans h.handlers
  map := k.map.trans h.map
  cfg := k.cfg.trans h.cfg
  prefAddr := k.prefAddr.trans h.prefAddr
  prefData := k.prefData.trans h.prefData
  budget := k.budget.trans h.budget
  total := h.total.trans k.total
  run := h.run.trans k.run
  draws := h.draws.trans k.draws
  wf := k.wf ∘ h.wf
  sr := k.sr ∘ h.sr
  fc := k.fc ∘ h.fc

/-- A part of a step that leaves no trace pending where none was. -/
structure Traced (s t : State) : Prop extends Steady s t where
  trace : s.tracePending = false → t.tracePending = false

theorem Traced.refl (s : State) : Traced s s := ⟨.refl s, id⟩

theorem Traced.trans (h : Traced s t) (k : Traced t u) : Traced s u :=
  ⟨h.toSteady.trans k.toSteady, k.trace ∘ h.trace⟩

/-- A part of a step that leaves `run_mode` and `double_fault` as they were, too. -/
structure ModeKept (s t : State) : Prop extends Traced s t where
  runMode : t.runMode = s.runMode
  doubleFault : t.doubleFault = s.doubleFault

theorem ModeKept.refl (s : State) : ModeKept s s := ⟨.refl s, rfl, rfl⟩

theorem ModeKept.trans (h : ModeKept s t) (k : ModeKept t u) : ModeKept s u :=
  ⟨h.toTraced.trans k.toTraced, k.runMode.trans h.runMode, k.doubleFault.trans h.doubleFault⟩

/-- A part of a step that ends with GROUP0 in a double fault only. -/
structure Sound (s t : State) : Prop extends Steady s t where
  mode : ModeValid s → ModeValid t

theorem Sound.trans (h : Sound s t) (k : Sound t u) : Sound s u :=
  ⟨h.toSteady.trans k.toSteady, k.mode ∘ h.mode⟩

/-- A part of a step that keeps all of the invariant. -/
structure Settled (s t : State) : Prop extends Sound s t, Traced s t

theorem Settled.trans (h : Settled s t) (k : Settled t u) : Settled s u :=
  ⟨h.toSound.trans k.toSound, k.trace ∘ h.trace⟩

theorem ModeKept.settled (h : ModeKept s t) : Settled s t :=
  ⟨⟨h.toSteady, fun hs e => by rw [h.doubleFault]; exact hs (h.runMode ▸ e)⟩, h.trace⟩

theorem Settled.inv (h : Settled s t) (hs : Inv s) : Inv t :=
  have hsr := h.sr ⟨hs.sr, hs.savedSr⟩
  ⟨h.wf hs.mem, hsr.1, hsr.2, h.fc hs.fc, h.mode hs.runMode, h.trace hs.trace⟩

/-- A change of the registers, of SR, of pc, IR, `inst_pc`, the rollback copy, the idle state,
`stopped`, or of how the step ended. -/
theorem ModeKept.of_registers (h : t = { s with
      d := t.d, a := t.a, usp := t.usp, ssp := t.ssp, pc := t.pc, sr := t.sr, ir := t.ir
      instPc := t.instPc, stopped := t.stopped, saved := t.saved, idlePc := t.idlePc
      idleCycle := t.idleCycle, idleDetected := t.idleDetected, lastEnd := t.lastEnd
      delayedIrq := t.delayedIrq, nmiPending := t.nmiPending, intLevel := t.intLevel })
    (hsr : SrValid s → SrValid t) : ModeKept s t := by
  rw [h] at hsr ⊢
  exact ⟨⟨⟨rfl, rfl, rfl, rfl, rfl, rfl, le_rfl, le_rfl, le_rfl, id, hsr, id⟩, id⟩, rfl, rfl⟩

theorem ModeKept.of_calm (h : Calm w s t) : ModeKept s t := by
  have hfc := h.fc
  have hd := h.draws
  have hw := h.wf
  rw [h.eq] at hfc hd hw ⊢
  refine ⟨⟨⟨rfl, rfl, rfl, rfl, rfl, rfl, le_rfl, le_rfl, hd, hw, id, fun hs he => ?_⟩, id⟩,
    rfl, rfl⟩
  rcases hfc with e | ⟨-, e⟩
  · exact e ▸ hs he
  · exact e

theorem modeKept_setActiveSp (s : State) (v : Long) : ModeKept s (s.setActiveSp v) := by
  rw [State.setActiveSp_eq]
  exact .of_registers rfl id

theorem modeKept_setSr (s : State) (v : Word) : ModeKept s (s.setSr v) :=
  .of_registers rfl fun h => ⟨masked_valid v, h.2⟩

theorem modeKept_takeSaved (s : State) : ModeKept s s.takeSaved :=
  .of_registers rfl fun h => ⟨h.1, h.1⟩

/-! ### Bodies -/

/-- A relation that a body may keep: reflexive and transitive, and wide enough for every
access. -/
structure Frame (P : State → State → Prop) : Prop where
  refl : ∀ s, P s s
  trans : ∀ {s t u}, P s t → P t u → P s u
  traced : ∀ {s t}, P s t → Traced s t
  calm : ∀ {w s t}, Calm w s t → P s t

theorem frame_modeKept : Frame ModeKept := ⟨.refl, .trans, ModeKept.toTraced, .of_calm⟩

theorem frame_traced : Frame Traced := ⟨.refl, .trans, id, fun h => (ModeKept.of_calm h).toTraced⟩

/-- A body changes the state by `P` when it ends, and by `Traced` at an address error. -/
def Runs (P : State → State → Prop) (x : Exec α) : Prop :=
  ∀ s, (∀ a t, x s = .ok a t → P s t) ∧ ∀ t, x s = .error .addressError t → Traced s t

variable {P Q : State → State → Prop} {x : Exec α} {f : α → Exec β}

theorem runs_mono (hPQ : ∀ {s t}, P s t → Q s t) (h : Runs P x) : Runs Q x :=
  fun s => ⟨fun a t e => hPQ ((h s).1 a t e), (h s).2⟩

/-- A sequence, its parts under two relations. -/
theorem runs_seq (hPQ : ∀ {s t u}, P s t → Q t u → Q s u) (hP : ∀ {s t}, P s t → Traced s t)
    (hx : Runs P x) (hf : ∀ a s t, x s = .ok a t → Runs Q (f a)) : Runs Q (x >>= f) := by
  refine fun s => ⟨fun b u e => ?_, fun u e => ?_⟩
  · obtain ⟨a, t, e1, e2⟩ := ok_of_bind e
    exact hPQ ((hx s).1 a t e1) ((hf a s t e1 t).1 b u e2)
  · rcases error_of_bind e with e1 | ⟨a, t, e1, e2⟩
    · exact (hx s).2 u e1
    · exact (hP ((hx s).1 a t e1)).trans ((hf a s t e1 t).2 u e2)

theorem runs_failWith (f : Fault) : Runs P (failWith f : Exec α) :=
  fun _ => ⟨fun _ _ e => (nomatch e), fun _ e => (nomatch e)⟩

theorem runs_update {g : State → State} (h : ∀ s, P s (g s)) : Runs P (update g) :=
  fun s => ⟨fun _ _ e => by cases e; exact h s, fun _ e => by cases e⟩

/-- A body that ends, ends with an answer and a state of which something holds. -/
def Ensures (R : α → State → Prop) (x : Exec α) : Prop := ∀ s a t, x s = .ok a t → R a t

/-- What the last part of a sequence ensures, the sequence ensures. -/
theorem ensures_bind {R : β → State → Prop} (hf : ∀ a, Ensures R (f a)) :
    Ensures R (x >>= f) := by
  intro s b u e
  obtain ⟨a, t, -, e2⟩ := ok_of_bind e
  exact hf a t b u e2

theorem ensures_pure {R : α → State → Prop} {a : α} (h : ∀ t, R a t) :
    Ensures R (pure a : Exec α) := fun _ _ _ e => by
  cases e
  exact h _

namespace Frame

theorem seq (hP : Frame P) (hx : Runs P x) (hf : ∀ a s t, x s = .ok a t → Runs P (f a)) :
    Runs P (x >>= f) := runs_seq hP.trans hP.traced hx hf

theorem bind (hP : Frame P) (hx : Runs P x) (hf : ∀ a, Runs P (f a)) : Runs P (x >>= f) :=
  hP.seq hx fun a _ _ _ => hf a

theorem pure (hP : Frame P) (a : α) : Runs P (Pure.pure a : Exec α) :=
  fun s => ⟨fun _ _ e => by cases e; exact hP.refl s, fun _ e => by cases e⟩

theorem look (hP : Frame P) (g : State → α) : Runs P (Machine.look g) :=
  fun s => ⟨fun _ _ e => by cases e; exact hP.refl s, fun _ e => by cases e⟩

/-- Every calm operation keeps a frame. -/
theorem calmly (hP : Frame P) (h : ∀ s, Calmly [] x s) : Runs P x := by
  refine fun s => ⟨fun a t e => hP.calm ((h s).ok e), fun t e => ?_⟩
  have k := (ModeKept.of_calm ((h s).addressError e)).toTraced
  exact { k with }

theorem store (hP : Frame P) (ph : Phase) (sz : Size) (a v : Long) :
    Runs P (memWrite ph sz a v) := by
  refine fun s => ⟨fun _ t e => hP.calm ((calmly_memWrite ph sz a v s).ok e), fun t e => ?_⟩
  have k := (ModeKept.of_calm ((calmly_memWrite ph sz a v s).addressError e)).toTraced
  exact { k with }

theorem push (hP : Frame P) (hsp : ∀ s v, P s (s.setActiveSp v)) (ph : Phase) (sz : Size)
    (v : Long) : Runs P (push ph sz v) :=
  hP.bind (runs_update fun s => hsp s _) fun _ => hP.bind (hP.look _) fun _ => hP.store ph sz _ v

theorem pop (hP : Frame P) (hsp : ∀ s v, P s (s.setActiveSp v)) (ph : Phase) (sz : Size) :
    Runs P (pop ph sz) :=
  hP.bind (hP.look _) fun _ => hP.bind (hP.calmly (calmly_memRead ph sz _)) fun _ =>
    hP.bind (runs_update fun s => hsp s _) fun _ => hP.pure _

end Frame

/-! ### Exceptions (R510, R522, R525) -/

theorem runs_exceptionEntry (v : Byte) (stackedPc : Long) (mask : Option Level) :
    Runs ModeKept (exceptionEntry v stackedPc mask) := by
  have F := frame_modeKept
  refine F.bind (runs_update modeKept_takeSaved) fun _ => F.bind (F.look _) fun _ =>
    F.bind (runs_update fun s => modeKept_setSr s _) fun _ =>
    F.bind (F.push modeKept_setActiveSp _ _ _) fun _ =>
    F.bind (F.push modeKept_setActiveSp _ _ _) fun _ =>
    F.bind (F.calmly (calmly_memRead _ _ _)) fun _ => runs_update fun s => .of_registers rfl id

theorem traced_restoreSaved (s : State) : Traced s { s.restoreSaved with runMode := .group0 } :=
  ⟨⟨rfl, rfl, rfl, rfl, rfl, rfl, le_rfl, le_rfl, le_rfl, id, fun h => ⟨h.2, h.2⟩, id⟩, id⟩

theorem runs_addressErrorBody : Runs Traced addressErrorBody := by
  have F := frame_traced
  have hsp := fun s v => (modeKept_setActiveSp s v).toTraced
  refine F.bind (runs_update traced_restoreSaved) fun _ => F.bind (F.look _) fun _ =>
    F.bind (runs_update fun s => (modeKept_setSr s _).toTraced) fun _ =>
    F.bind (F.calmly calmly_drawLong) fun _ => F.bind (F.calmly calmly_drawLong) fun _ =>
    F.bind (F.push hsp _ _ _) fun _ => F.bind (F.push hsp _ _ _) fun _ =>
    F.bind (F.push hsp _ _ _) fun _ => F.bind (F.push hsp _ _ _) fun _ =>
    F.bind (F.push hsp _ _ _) fun _ => F.bind (F.calmly (calmly_memRead _ _ _)) fun _ =>
    runs_update fun s => ?_
  exact ⟨⟨rfl, rfl, rfl, rfl, rfl, rfl, le_rfl, le_rfl, le_rfl, id, id, id⟩, id⟩

/-- Address-error processing that ends leaves GROUP0 (R522). -/
theorem ensures_addressErrorBody :
    Ensures (fun _ t => t.runMode = .normal) addressErrorBody := by
  refine ensures_bind fun _ => ensures_bind fun _ => ensures_bind fun _ => ensures_bind fun _ =>
    ensures_bind fun _ => ensures_bind fun _ => ensures_bind fun _ => ensures_bind fun _ =>
    ensures_bind fun _ => ensures_bind fun _ => ensures_bind fun _ => fun s _ u e => ?_
  cases e
  rfl

theorem traced_finish (e : StepEnd) (cost : Cost) (s : State) : Traced s (finish e cost s) :=
  ⟨⟨rfl, rfl, rfl, rfl, rfl, rfl, Nat.le_add_right _ _, Nat.le_add_right _ _, le_rfl, id, id, id⟩,
    id⟩

theorem traced_doubleFault (s : State) : Traced s (doubleFault s) :=
  ⟨⟨rfl, rfl, rfl, rfl, rfl, rfl, Nat.le_add_right _ _, Nat.le_add_right _ _, le_rfl, id, id, id⟩,
    id⟩

/-- What follows an address error ends in a double fault, or with `run_mode` NORMAL (R522, R525). -/
theorem addressError_next (h : addressError s = .next t) :
    Traced s t ∧ ModeValid t ∧ t.lastEnd = .addressFault := by
  unfold addressError at h
  split at h
  · cases h
    exact ⟨traced_doubleFault s, fun _ => rfl, rfl⟩
  · split at h
    · next a u e =>
      cases h
      exact ⟨((runs_addressErrorBody s).1 a u e).trans (traced_finish _ _ u),
        fun hm => by simp [ensures_addressErrorBody s a u e] at hm, rfl⟩
    · next u e =>
      cases h
      exact ⟨((runs_addressErrorBody s).2 u e).trans (traced_doubleFault u), fun _ => rfl, rfl⟩
    · cases h

/-- Taking an exception ends as it is said to, or in an address error (R510, R522). -/
theorem takeException_next {e : StepEnd} {cost : Cost} {v : Byte} {pc : Long} {m : Option Level}
    (h : takeException e cost v pc m s = .next t) :
    Settled s t ∧ (t.lastEnd = e ∨ t.lastEnd = .addressFault) := by
  unfold takeException at h
  split at h
  · next a u eu =>
    cases h
    have k := ((runs_exceptionEntry v pc m s).1 a u eu).settled
    have f := traced_finish e cost u
    exact ⟨k.trans ⟨⟨f.toSteady, id⟩, f.trace⟩, .inl rfl⟩
  · next u eu =>
    obtain ⟨k, hm, he⟩ := addressError_next h
    have k' := ((runs_exceptionEntry v pc m s).2 u eu).trans k
    exact ⟨⟨⟨k'.toSteady, fun _ => hm⟩, k'.trace⟩, .inr he⟩
  · cases h

end Sys2Proof.Machine
end

section
/-!
SUPPORT. What a register, and what a condition code, reads as after a write to the same and to
another.
-/

namespace Sys2Proof.Machine

/-! ### Condition codes (R47, R48) -/

/-- The bits of SR after a write of CCR (R48). -/
theorem State.setCcr_getLsbD (s : State) (c : BitVec 5) (k : Nat) :
    (s.setCcr c).sr.getLsbD k = if k < 5 then c.getLsbD k else s.sr.getLsbD k := by
  have h : (s.setCcr c).sr.getLsbD k =
      if k < 5 then c.getLsbD k else (s.sr.extractLsb' 5 11).getLsbD (k - 5) :=
    BitVec.getLsbD_append
  rw [h]
  split
  · rfl
  · rw [BitVec.getLsbD_extractLsb']
    by_cases hk : k - 5 < 11
    · simp [hk, show 5 + (k - 5) = k by omega]
    · simp [hk, BitVec.getLsbD_of_ge s.sr k (by omega)]

theorem State.flagS_eq_system (s : State) : s.flagS = (s.sr.extractLsb' 5 11).getLsbD 8 := by
  simp [State.flagS]

theorem State.setCcr_system (s : State) (c : BitVec 5) :
    (s.setCcr c).sr.extractLsb' 5 11 = s.sr.extractLsb' 5 11 :=
  BitVec.eq_of_getLsbD_eq fun i hi => by
    rw [BitVec.getLsbD_extractLsb', BitVec.getLsbD_extractLsb', State.setCcr_getLsbD,
      if_neg (by omega)]

/-- The place of each condition code in CCR (R47). -/
theorem ccrBits_getLsbD (f : Flags) :
    (ccrBits f).getLsbD 4 = f.x ∧ (ccrBits f).getLsbD 3 = f.n ∧ (ccrBits f).getLsbD 2 = f.z ∧
    (ccrBits f).getLsbD 1 = f.v ∧ (ccrBits f).getLsbD 0 = f.c := by
  obtain ⟨x, n, z, v, c⟩ := f
  revert x n z v c
  decide

/-! ### Registers (R40-R43) -/

theorem State.readD_writeD (s : State) (n m : Reg) (v : Long) :
    (s.writeD n v).readD m = if m = n then v else s.readD m := by
  simp [State.readD, State.writeD, Vector.get_eq_getElem, Vector.getElem_set, Fin.val_inj, eq_comm]

theorem lt_seven {n : Reg} (h : n ≠ 7) : n.val < 7 := by
  have := n.isLt
  have : n.val ≠ 7 := fun e => h (Fin.ext e)
  omega

/-- An address register below A7 is read from the array of them. -/
theorem State.readA_congr {s t : State} {n : Reg} (h : n ≠ 7) (ha : t.a = s.a) :
    t.readA n = s.readA n := by
  simp only [State.readA, lt_seven h, ha, dif_pos]

theorem State.activeSp_setActiveSp (s : State) (v : Long) : (s.setActiveSp v).activeSp = v := by
  cases h : s.flagS <;> simp [State.activeSp, State.setActiveSp, h] <;> simp_all [State.flagS]

theorem State.readA_writeA (s : State) (n m : Reg) (v : Long) :
    (s.writeA n v).readA m = if m = n then v else s.readA m := by
  by_cases hn : n.val < 7 <;> by_cases hm : m.val < 7
  · simp [State.readA, State.writeA, hn, hm, Vector.getElem_set, Fin.val_inj, eq_comm]
  · have : m ≠ n := fun e => hm (e ▸ hn)
    simp only [State.readA, State.writeA, hn, hm, this]
    rfl
  · have : m ≠ n := fun e => hn (e ▸ hm)
    simp [State.readA, State.writeA, hn, hm, this]
  · have : m = n := Fin.ext (by omega)
    simp [State.readA, State.writeA, hn, this, State.activeSp_setActiveSp]


end Sys2Proof.Machine
end

section
/-!
SUPPORT. What the body of an instruction may change, by the tables of what the instruction names:
`Within i s t` says that `t` differs from `s` in nothing but that. One lemma for each elementary
change, and one for each shared operation of the bodies.
-/

namespace Sys2Proof.Machine

variable {α β : Type} {w : List Addr} {s t u : State} {i : Instr}

/-! ### The relation -/

/-- No field is changed but the registers and what an access changes, and the lines of the host only
by a host move (R583). -/
structure SpecialKept (s t : State) : Prop where
  eq : t = { s with
    d := t.d, a := t.a, usp := t.usp, ssp := t.ssp, sr := t.sr
    pc := t.pc, fc := t.fc, calls := t.calls, script := t.script, draws := t.draws
    intLevel := t.intLevel, nmiPending := t.nmiPending, delayedIrq := t.delayedIrq
    haltPin := t.haltPin, mem := t.mem }
  lines : s.script = [] → t.script = [] ∧ t.intLevel = s.intLevel ∧
    t.nmiPending = s.nmiPending ∧ t.delayedIrq = s.delayedIrq ∧ t.haltPin = s.haltPin

/-- No register is changed but those the instruction may write, and of the stack pointers the active
one only (R41-R43). -/
structure RegistersWithin (i : Instr) (s t : State) : Prop where
  data : ∀ n, mayWriteD i n = false → t.readD n = s.readD n
  address : ∀ n, n ≠ 7 → mayWriteA i n = false → t.readA n = s.readA n
  stack : mayWriteA i 7 = false → t.usp = s.usp ∧ t.ssp = s.ssp
  usp : s.flagS = true → t.usp = s.usp
  ssp : s.flagS = false → t.ssp = s.ssp

/-- `SR[15:5]` is kept, and of the condition codes those the instruction does not set (R51). -/
structure StatusWithin (i : Instr) (s t : State) : Prop where
  system : t.sr.extractLsb' 5 11 = s.sr.extractLsb' 5 11
  flagX : mayChangeX i = false → t.flagX = s.flagX
  all : keepsFlags i = true → t.sr = s.sr
  zOnly : changesZOnly i = true → t.flagN = s.flagN ∧ t.flagV = s.flagV ∧ t.flagC = s.flagC

/-- `t` is `s` after changes that the instruction may make. -/
structure Within (i : Instr) (s t : State) : Prop where
  modeKept : ModeKept s t
  special : SpecialKept s t
  registers : RegistersWithin i s t
  status : StatusWithin i s t

theorem SpecialKept.trans (h : SpecialKept s t) (k : SpecialKept t u) : SpecialKept s u where
  eq := by
    have h1 := h.eq
    have h2 := k.eq
    rw [h1] at h2
    exact h2
  lines := fun hs => by
    obtain ⟨h0, h1, h2, h3, h4⟩ := h.lines hs
    obtain ⟨k0, k1, k2, k3, k4⟩ := k.lines h0
    exact ⟨k0, k1.trans h1, k2.trans h2, k3.trans h3, k4.trans h4⟩

theorem StatusWithin.flagS (h : StatusWithin i s t) : t.flagS = s.flagS := by
  rw [State.flagS_eq_system, State.flagS_eq_system, h.system]

theorem RegistersWithin.trans (h : RegistersWithin i s t) (k : RegistersWithin i t u)
    (hS : t.flagS = s.flagS) : RegistersWithin i s u where
  data := fun n hn => (k.data n hn).trans (h.data n hn)
  address := fun n h7 hn => (k.address n h7 hn).trans (h.address n h7 hn)
  stack := fun h7 => ⟨(k.stack h7).1.trans (h.stack h7).1, (k.stack h7).2.trans (h.stack h7).2⟩
  usp := fun hs => (k.usp (hS.trans hs)).trans (h.usp hs)
  ssp := fun hs => (k.ssp (hS.trans hs)).trans (h.ssp hs)

theorem StatusWithin.trans (h : StatusWithin i s t) (k : StatusWithin i t u) :
    StatusWithin i s u where
  system := k.system.trans h.system
  flagX := fun hi => (k.flagX hi).trans (h.flagX hi)
  all := fun hi => (k.all hi).trans (h.all hi)
  zOnly := fun hi => by
    obtain ⟨hn, hv, hc⟩ := h.zOnly hi
    obtain ⟨kn, kv, kc⟩ := k.zOnly hi
    exact ⟨kn.trans hn, kv.trans hv, kc.trans hc⟩

theorem Within.trans (h : Within i s t) (k : Within i t u) : Within i s u :=
  ⟨h.modeKept.trans k.modeKept, h.special.trans k.special,
    h.registers.trans k.registers h.status.flagS, h.status.trans k.status⟩

/-! ### The elementary changes -/

/-- Registers that are equal are within what any instruction may write. -/
theorem RegistersWithin.of_eq (hd : t.d = s.d) (ha : t.a = s.a) (hu : t.usp = s.usp)
    (hs : t.ssp = s.ssp) : RegistersWithin i s t where
  data := fun n _ => by simp only [State.readD, hd]
  address := fun _ h7 _ => State.readA_congr h7 ha
  stack := fun _ => ⟨hu, hs⟩
  usp := fun _ => hu
  ssp := fun _ => hs

theorem StatusWithin.of_eq (h : t.sr = s.sr) : StatusWithin i s t := by
  constructor <;> intros <;>
    simp only [State.flagX, State.flagN, State.flagV, State.flagC, h, and_self]

/-- Every instruction may access memory, draw, and write pc. -/
theorem Within.of_calm (h : Calm w s t) : Within i s t := by
  have hl := h.lines
  refine ⟨.of_calm h, ⟨by rw [h.eq], hl⟩, ?_, ?_⟩
  · exact .of_eq (by rw [h.eq]) (by rw [h.eq]) (by rw [h.eq]) (by rw [h.eq])
  · exact .of_eq (by rw [h.eq])

theorem within_writeD {n : Reg} (hn : mayWriteD i n = true) (s : State) (v : Long) :
    Within i s (s.writeD n v) where
  modeKept := .of_registers rfl id
  special := ⟨rfl, fun h => ⟨h, rfl, rfl, rfl, rfl⟩⟩
  registers :=
    { data := fun m hm => by
        have : m ≠ n := fun e => by simp [e, hn] at hm
        rw [State.readD_writeD, if_neg this]
      address := fun _ _ _ => rfl
      stack := fun _ => ⟨rfl, rfl⟩
      usp := fun _ => rfl
      ssp := fun _ => rfl }
  status := .of_eq rfl

theorem within_writeA {n : Reg} (hn : mayWriteA i n = true) (s : State) (v : Long) :
    Within i s (s.writeA n v) where
  modeKept := by rw [State.writeA_eq]; exact .of_registers rfl id
  special := by rw [State.writeA_eq]; exact ⟨rfl, fun h => ⟨h, rfl, rfl, rfl, rfl⟩⟩
  registers :=
    { data := fun _ _ => by simp only [State.readD, State.writeA_d]
      address := fun m _ hm => by
        have : m ≠ n := fun e => by simp [e, hn] at hm
        rw [State.readA_writeA, if_neg this]
      stack := fun h7 => by
        have : n ≠ 7 := fun e => by simp [← e, hn] at h7
        have : n.val < 7 := lt_seven this
        simp [State.writeA, this]
      usp := fun hs => by simp [State.writeA_eq, hs]
      ssp := fun hs => by simp [State.writeA_eq, hs] }
  status := .of_eq (State.writeA_sr s n v)

theorem within_setActiveSp (h : mayWriteA i 7 = true) (s : State) (v : Long) :
    Within i s (s.setActiveSp v) := within_writeA h s v

/-- A write of CCR, for an instruction that sets every condition code that it changes. -/
theorem within_setCcr {c : BitVec 5} (s : State) (hi : keepsFlags i = false)
    (hx : mayChangeX i = false → c.getLsbD 4 = s.flagX)
    (hz : changesZOnly i = true →
      c.getLsbD 3 = s.flagN ∧ c.getLsbD 1 = s.flagV ∧ c.getLsbD 0 = s.flagC) :
    Within i s (s.setCcr c) := by
  have hsys := State.setCcr_system s c
  have bit (k : Nat) (hk : k < 5) : (s.setCcr c).sr.getLsbD k = c.getLsbD k := by
    rw [State.setCcr_getLsbD, if_pos hk]
  refine ⟨.of_registers rfl fun hs => ⟨?_, hs.2⟩, ⟨rfl, fun h => ⟨h, rfl, rfl, rfl, rfl⟩⟩,
    .of_eq rfl rfl rfl rfl, hsys, fun h => (bit 4 (by decide)).trans (hx h),
    fun h => (nomatch hi.symm.trans h), fun h => ?_⟩
  · rw [unimplemented_eq, hsys, ← unimplemented_eq, hs.1]
  · obtain ⟨hn, hv, hc⟩ := hz h
    exact ⟨(bit 3 (by decide)).trans hn, (bit 1 (by decide)).trans hv,
      (bit 0 (by decide)).trans hc⟩

/-- The condition codes that a rule computes from those before are those the instruction sets. -/
structure MaySet (i : Instr) (f : Flags → Flags) : Prop where
  sets : keepsFlags i = false
  flagX : mayChangeX i = false → ∀ old, (f old).x = old.x
  zOnly : changesZOnly i = true → ∀ old, (f old).n = old.n ∧ (f old).v = old.v ∧ (f old).c = old.c

theorem within_setFlags {f : Flags → Flags} (h : MaySet i f) (s : State) :
    Within i s (s.setFlags (f s.flags)) := by
  obtain ⟨bx, bn, -, bv, bc⟩ := ccrBits_getLsbD (f s.flags)
  refine within_setCcr s h.sets (fun hi => bx.trans (h.flagX hi _)) fun hi => ?_
  obtain ⟨hn, hv, hc⟩ := h.zOnly hi s.flags
  exact ⟨bn.trans hn, bv.trans hv, bc.trans hc⟩

theorem frame_within (i : Instr) : Frame (Within i) where
  refl := fun s => .of_calm (.refl [] s)
  trans := .trans
  traced := fun h => h.modeKept.toTraced
  calm := .of_calm

end Sys2Proof.Machine
end

section
/-!
SUPPORT. The shared operations of the bodies stay within what the instruction may change: operands,
flag-setting operations and loops, one lemma each.
-/

namespace Sys2Proof.Machine

variable {α β : Type} {w : List Addr} {s t u : State} {i : Instr}

/-! ### The tables of what an instruction may write -/

theorem mayWriteD_of_destination {n : Reg} (h : destinationOf i = some (.dreg n)) :
    mayWriteD i n = true := by
  simp [mayWriteD, h]

theorem mayWriteA_of_destination {n : Reg} (h : destinationOf i = some (.areg n)) :
    mayWriteA i n = true := by
  simp [mayWriteA, h]

theorem mayWriteA_of_operand {ea : EA} {n : Reg} (h : ea ∈ operandsOf i)
    (hs : eaSteps ea = some n) : mayWriteA i n = true := by
  have : (operandsOf i).any (fun ea => eaSteps ea == some n) = true :=
    List.any_eq_true.2 ⟨ea, h, by simp [hs]⟩
  simp [mayWriteA, this]

theorem mayWriteA_of_stack (h : usesStack i = true) : mayWriteA i 7 = true := by
  simp [mayWriteA, h]

/-! ### Condition codes -/

/-- The instruction sets all five condition codes. -/
def SetsAll (i : Instr) : Prop :=
  keepsFlags i = false ∧ changesZOnly i = false ∧ mayChangeX i = true

/-- The instruction sets N, Z, V and C. -/
def SetsNZVC (i : Instr) : Prop := keepsFlags i = false ∧ changesZOnly i = false

theorem maySet_all (h : SetsAll i) (f : Flags → Flags) : MaySet i f :=
  ⟨h.1, fun e => (nomatch e.symm.trans h.2.2), fun e => (nomatch e.symm.trans h.2.1)⟩

theorem maySet_keepX (h : SetsNZVC i) {f : Flags → Flags} (hf : ∀ old, (f old).x = old.x) :
    MaySet i f :=
  ⟨h.1, fun _ => hf, fun e => (nomatch e.symm.trans h.2)⟩

theorem runs_setFlagsFrom {f : Flags → Flags} (h : MaySet i f) :
    Runs (Within i) (setFlagsFrom f) := runs_update fun s => within_setFlags h s

theorem runs_setLogic (h : SetsNZVC i) (sz : Size) (r : Long) : Runs (Within i) (setLogic sz r) :=
  runs_setFlagsFrom (maySet_keepX h fun _ => rfl)

theorem runs_setCcr (h : SetsAll i) (g : State → BitVec 5) :
    Runs (Within i) (update fun s => s.setCcr (g s)) :=
  runs_update fun s => within_setCcr s h.1 (fun e => (nomatch e.symm.trans h.2.2)) fun e =>
    (nomatch e.symm.trans h.2.1)

/-- An operation on destination and source, at any size, stays within what the instruction may
change. -/
def OpWithin (i : Instr) (op : Size → Long → Long → Exec Long) : Prop :=
  ∀ sz d s, Runs (Within i) (op sz d s)

theorem opWithin_addOp (h : SetsAll i) : OpWithin i addOp := fun _ _ _ =>
  (frame_within i).bind (runs_setFlagsFrom (maySet_all h _)) fun _ => (frame_within i).pure _

theorem opWithin_subOp (h : SetsAll i) : OpWithin i subOp := fun _ _ _ =>
  (frame_within i).bind (runs_setFlagsFrom (maySet_all h _)) fun _ => (frame_within i).pure _

theorem opWithin_addXOp (h : SetsAll i) : OpWithin i addXOp := fun _ _ _ =>
  (frame_within i).bind ((frame_within i).look _) fun _ =>
    (frame_within i).bind (runs_setFlagsFrom (maySet_all h _)) fun _ => (frame_within i).pure _

theorem opWithin_subXOp (h : SetsAll i) : OpWithin i subXOp := fun _ _ _ =>
  (frame_within i).bind ((frame_within i).look _) fun _ =>
    (frame_within i).bind (runs_setFlagsFrom (maySet_all h _)) fun _ => (frame_within i).pure _

theorem runs_logicOp (h : SetsNZVC i) (sz : Size) (r : Long) : Runs (Within i) (logicOp sz r) :=
  (frame_within i).bind (runs_setLogic h sz r) fun _ => (frame_within i).pure _

theorem opWithin_andOp (h : SetsNZVC i) : OpWithin i andOp := fun _ _ _ => runs_logicOp h _ _

theorem opWithin_orOp (h : SetsNZVC i) : OpWithin i orOp := fun _ _ _ => runs_logicOp h _ _

theorem opWithin_eorOp (h : SetsNZVC i) : OpWithin i eorOp := fun _ _ _ => runs_logicOp h _ _

theorem runs_cmpOp (h : SetsNZVC i) (sz : Size) (d s : Long) : Runs (Within i) (cmpOp sz d s) :=
  runs_setFlagsFrom (maySet_keepX h fun _ => rfl)

theorem runs_bcdOp (h : SetsAll i) (op : BcdOp) (d s : Long) : Runs (Within i) (bcdOp op d s) :=
  (frame_within i).bind ((frame_within i).look _) fun _ =>
    (frame_within i).bind (runs_setFlagsFrom (maySet_all h _)) fun _ => (frame_within i).pure _

theorem runs_setZFromBit (h : keepsFlags i = false) (v : Long) (n : Nat) :
    Runs (Within i) (setZFromBit v n) :=
  runs_setFlagsFrom ⟨h, fun _ _ => rfl, fun _ _ => ⟨rfl, rfl, rfl⟩⟩

/-! ### Registers -/

theorem runs_storeD {n : Reg} (h : mayWriteD i n = true) (sz : Size) (v : Long) :
    Runs (Within i) (storeD sz n v) := runs_update fun s => within_writeD h s _

theorem runs_storeA {n : Reg} (h : mayWriteA i n = true) (v : Long) :
    Runs (Within i) (storeA n v) := runs_update fun s => within_writeA h s v

theorem runs_writeR (hD : ∀ n, mayWriteD i n = true) (hA : ∀ n, mayWriteA i n = true) (r : Fin 16)
    (v : Long) : Runs (Within i) (update fun s => s.writeR r v) := by
  refine runs_update fun s => ?_
  unfold State.writeR
  split
  · exact within_writeD (hD _) s v
  · exact within_writeA (hA _) s v

/-! ### Operands (R160, R163) -/

/-- A place is a register only for the mode that names that register. -/
def LocFits (ea : EA) (loc : Loc) : Prop :=
  (∀ n, loc = .dreg n → ea = .dreg n) ∧ ∀ n, loc = .areg n → ea = .areg n

theorem resolveEa_fits (sz : Size) (ea : EA) :
    Ensures (fun loc _ => LocFits ea loc) (resolveEa sz ea) := by
  have mem (ea : EA) (a : Long) : Ensures (fun loc _ => LocFits ea loc) (pure (Loc.mem a)) :=
    ensures_pure fun _ => ⟨nofun, nofun⟩
  have pcMem (ea : EA) (a : Long) : Ensures (fun loc _ => LocFits ea loc) (pure (Loc.pcMem a)) :=
    ensures_pure fun _ => ⟨nofun, nofun⟩
  cases ea with
  | dreg n => exact ensures_pure fun _ => ⟨fun _ e => by cases e; rfl, nofun⟩
  | areg n => exact ensures_pure fun _ => ⟨nofun, fun _ e => by cases e; rfl⟩
  | ind n => exact ensures_bind fun _ => mem _ _
  | postInc n => exact ensures_bind fun _ => ensures_bind fun _ => mem _ _
  | preDec n => exact ensures_bind fun _ => ensures_bind fun _ => mem _ _
  | disp n => exact ensures_bind fun _ => ensures_bind fun _ => mem _ _
  | index n => exact ensures_bind fun _ => ensures_bind fun _ => mem _ _
  | absW => exact ensures_bind fun _ => mem _ _
  | absL => exact ensures_bind fun _ => mem _ _
  | pcDisp => exact ensures_bind fun _ => ensures_bind fun _ => pcMem _ _
  | pcIndex => exact ensures_bind fun _ => ensures_bind fun _ => ensures_bind fun _ => pcMem _ _
  | imm => exact ensures_bind fun _ => ensures_pure fun _ => ⟨nofun, nofun⟩

theorem runs_resolveEa {ea : EA} (ho : ea ∈ operandsOf i) (sz : Size) :
    Runs (Within i) (resolveEa sz ea) := by
  have F := frame_within i
  have step (n : Reg) (hs : eaSteps ea = some n) (g : State → Long) :
      Runs (Within i) (update fun s => s.writeA n (g s)) :=
    runs_update fun s => within_writeA (mayWriteA_of_operand ho hs) s _
  cases h : eaSteps ea with
  | none => exact F.calmly (calmly_resolveEa sz h)
  | some n =>
    cases ea with
    | postInc m =>
      exact F.bind (F.look _) fun _ => F.bind (step m rfl _) fun _ => F.pure _
    | preDec m =>
      exact F.bind (F.look _) fun _ => F.bind (step m rfl _) fun _ => F.pure _
    | _ => cases h

theorem runs_source {ea : EA} (ho : ea ∈ operandsOf i) (sz : Size) :
    Runs (Within i) (source sz ea) :=
  (frame_within i).bind (runs_resolveEa ho sz) fun loc =>
    (frame_within i).calmly (calmly_readLoc sz loc)

theorem runs_writeLoc {ea : EA} {loc : Loc} (hd : destinationOf i = some ea) (hl : LocFits ea loc)
    (sz : Size) (v : Long) : Runs (Within i) (writeLoc sz loc v) := by
  cases loc with
  | dreg n =>
    exact runs_update fun s =>
      within_writeD (mayWriteD_of_destination (hl.1 n rfl ▸ hd)) s _
  | areg n =>
    exact runs_update fun s =>
      within_writeA (mayWriteA_of_destination (hl.2 n rfl ▸ hd)) s v
  | mem a => exact (frame_within i).store _ sz a v
  | pcMem a => exact runs_failWith _
  | imm v => exact runs_failWith _

theorem runs_modify {ea : EA} {f : Long → Exec Long} (ho : ea ∈ operandsOf i)
    (hd : destinationOf i = some ea) (sz : Size) (hf : ∀ d, Runs (Within i) (f d)) :
    Runs (Within i) (modify sz ea f) := by
  have F := frame_within i
  refine F.seq (runs_resolveEa ho sz) fun loc s t e => ?_
  exact F.bind (F.calmly (calmly_readLoc sz loc)) fun d => F.bind (hf d) fun r =>
    runs_writeLoc hd (resolveEa_fits sz ea s loc t e) sz r

theorem calmly_addrOf (loc : Loc) (s : State) : Calmly w (addrOf loc) s := by
  cases loc with
  | mem a => exact calmly_pure a s
  | pcMem a => exact calmly_pure a s
  | dreg n => exact calmly_failWith _ s
  | areg n => exact calmly_failWith _ s
  | imm v => exact calmly_failWith _ s

theorem calmly_readAtLoc (loc : Loc) (sz : Size) (a : Long) (s : State) :
    Calmly w (readAtLoc loc sz a) s := by
  unfold readAtLoc
  split
  · exact calmly_memReadPc sz a s
  · exact calmly_memRead _ sz a s

theorem calmly_branchDisp (d8 : Byte) (s : State) : Calmly w (branchDisp d8) s := by
  unfold branchDisp
  split
  · exact calmly_fetchDisp s
  · exact calmly_pure _ s

theorem runs_setPc (g : State → Long) : Runs (Within i) (update fun s => s.setPc (g s)) :=
  runs_update fun s => .of_calm (.setPc s _)

theorem runs_push (h : usesStack i = true) (sz : Size) (v : Long) :
    Runs (Within i) (push .instruction sz v) :=
  (frame_within i).push (within_setActiveSp (mayWriteA_of_stack h)) _ sz v

theorem runs_pop (h : usesStack i = true) (sz : Size) : Runs (Within i) (pop .instruction sz) :=
  (frame_within i).pop (within_setActiveSp (mayWriteA_of_stack h)) _ sz

theorem runs_readPreDec {n : Reg} (h : .preDec n ∈ operandsOf i) (sz : Size) :
    Runs (Within i) (readPreDec sz n) := by
  have F := frame_within i
  exact F.bind (runs_update fun s => within_writeA (mayWriteA_of_operand h rfl) s _) fun _ =>
    F.bind (F.look _) fun a => F.calmly (calmly_memRead _ sz a)

theorem runs_readPostInc {n : Reg} (h : .postInc n ∈ operandsOf i) (sz : Size) :
    Runs (Within i) (readPostInc sz n) := by
  have F := frame_within i
  exact F.bind (F.look _) fun a => F.bind (F.calmly (calmly_memRead _ sz a)) fun _ =>
    F.bind (runs_update fun s => within_writeA (mayWriteA_of_operand h rfl) s _) fun _ => F.pure _

end Sys2Proof.Machine
end

section
/-!
SUPPORT. The bodies of the instructions stay within what their instruction may change; the writes of
SR and USP, which are made last, are told apart (`Final`). `meaning` says it of every instruction.
-/

namespace Sys2Proof.Machine

variable {α β : Type} {w : List Addr} {s t u : State} {i : Instr}

/-! ### Integer arithmetic and logic -/

theorem runs_toRegBody {op : Size → Long → Long → Exec Long} {sz : Size} {x : Reg} {ea : EA}
    {cost : Cost} (ho : ea ∈ operandsOf i) (hx : destinationOf i = some (.dreg x))
    (hop : OpWithin i op) : Runs (Within i) (toRegBody op sz x ea cost) := by
  have F := frame_within i
  exact F.bind (runs_source ho sz) fun v => F.bind (F.look _) fun d => F.bind (hop sz d v) fun r =>
    F.bind (runs_storeD (mayWriteD_of_destination hx) sz r) fun _ => F.pure _

theorem runs_toMemBody {op : Size → Long → Long → Exec Long} {sz : Size} {x : Reg} {ea : EA}
    {cost : Cost} (ho : ea ∈ operandsOf i) (hd : destinationOf i = some ea) (hop : OpWithin i op) :
    Runs (Within i) (toMemBody op sz x ea cost) := by
  have F := frame_within i
  exact F.bind (runs_modify ho hd sz fun d => F.bind (F.look _) fun v => hop sz d v) fun _ =>
    F.pure _

theorem runs_immBody {op : Size → Long → Long → Exec Long} {sz : Size} {ea : EA} {cost : Cost}
    (ho : ea ∈ operandsOf i) (hd : destinationOf i = some ea) (hop : OpWithin i op) :
    Runs (Within i) (immBody op sz ea cost) := by
  have F := frame_within i
  exact F.bind (F.calmly (calmly_immediate sz)) fun v =>
    F.bind (runs_modify ho hd sz fun d => hop sz d v) fun _ => F.pure _

/-- An instruction that is one read-modify-write. -/
theorem runs_modifyDone {sz : Size} {ea : EA} {f : Long → Exec Long} {cost : Cost}
    (ho : ea ∈ operandsOf i) (hd : destinationOf i = some ea) (hf : ∀ d, Runs (Within i) (f d)) :
    Runs (Within i) (do
      modify sz ea f
      pure (Done.completed cost)) :=
  (frame_within i).bind (runs_modify ho hd sz hf) fun _ => (frame_within i).pure _

theorem runs_toAddrBody {op : Long → Long → Long} {sz : Size} {x : Reg} {ea : EA}
    (ho : ea ∈ operandsOf i) (hx : destinationOf i = some (.areg x)) :
    Runs (Within i) (toAddrBody op sz x ea) := by
  have F := frame_within i
  exact F.bind (runs_source ho sz) fun v => F.bind (F.look _) fun _ =>
    F.bind (runs_storeA (mayWriteA_of_destination hx) _) fun _ => F.pure _

theorem runs_quickBody {op : Size → Long → Long → Exec Long} {addrOp : Long → Long → Long}
    {q : Reg} {sz : Size} {ea : EA} (ho : ea ∈ operandsOf i) (hd : destinationOf i = some ea)
    (hop : (∀ n, ea ≠ .areg n) → OpWithin i op) :
    Runs (Within i) (quickBody op addrOp q sz ea) := by
  have F := frame_within i
  unfold quickBody
  split
  · exact F.bind (F.look _) fun _ =>
      F.bind (runs_storeA (mayWriteA_of_destination hd) _) fun _ => F.pure _
  · next h => exact F.bind (runs_modify ho hd sz fun d => hop h sz d _) fun _ => F.pure _

theorem runs_extendedRegBody {op : Size → Long → Long → Exec Long} {sz : Size} {x y : Reg}
    (hx : destinationOf i = some (.dreg x)) (hop : OpWithin i op) :
    Runs (Within i) (extendedRegBody op sz x y) := by
  have F := frame_within i
  exact F.bind (F.look _) fun v => F.bind (F.look _) fun d => F.bind (hop sz d v) fun r =>
    F.bind (runs_storeD (mayWriteD_of_destination hx) sz r) fun _ => F.pure _

theorem runs_extendedMemBody {op : Size → Long → Long → Exec Long} {sz : Size} {x y : Reg}
    (hy : .preDec y ∈ operandsOf i) (hx : .preDec x ∈ operandsOf i) (hop : OpWithin i op) :
    Runs (Within i) (extendedMemBody op sz x y) := by
  have F := frame_within i
  exact F.bind (runs_readPreDec hy sz) fun v => F.bind (runs_readPreDec hx sz) fun d =>
    F.bind (hop sz d v) fun r => F.bind (F.look _) fun a => F.bind (F.store _ sz a r) fun _ =>
    F.pure _

theorem runs_cmpBody {sz : Size} {x : Reg} {ea : EA} (ho : ea ∈ operandsOf i) (hf : SetsNZVC i) :
    Runs (Within i) (cmpBody sz x ea) := by
  have F := frame_within i
  exact F.bind (runs_source ho sz) fun v => F.bind (F.look _) fun d =>
    F.bind (runs_cmpOp hf sz d v) fun _ => F.pure _

theorem runs_cmpaBody {sz : Size} {x : Reg} {ea : EA} (ho : ea ∈ operandsOf i)
    (hf : SetsNZVC i) : Runs (Within i) (cmpaBody sz x ea) := by
  have F := frame_within i
  exact F.bind (runs_source ho sz) fun _ => F.bind (F.look _) fun d =>
    F.bind (runs_cmpOp hf .l d _) fun _ => F.pure _

theorem runs_divideResult {x : Reg} (hx : destinationOf i = some (.dreg x)) (hf : SetsNZVC i)
    (result : Option (Word × Word)) : Runs (Within i) (divideResult x result) := by
  have F := frame_within i
  cases result with
  | none =>
    exact F.bind (F.calmly calmly_drawBit) fun _ => F.bind (F.calmly calmly_drawBit) fun _ =>
      runs_setFlagsFrom (maySet_keepX hf fun _ => rfl)
  | some p =>
    exact F.bind (runs_storeD (mayWriteD_of_destination hx) .l _) fun _ => runs_setLogic hf .w _

theorem runs_zeroDivide (hf : SetsNZVC i) (ea : EA) : Runs (Within i) (zeroDivide ea) := by
  have F := frame_within i
  exact F.bind (F.calmly calmly_drawBit) fun _ => F.bind (F.calmly calmly_drawBit) fun _ =>
    F.bind (F.calmly calmly_drawBit) fun _ =>
    F.bind (runs_setFlagsFrom (maySet_keepX hf fun _ => rfl)) fun _ => F.pure _

/-! ### Decimal arithmetic, shifts and bits -/

theorem runs_bcdRegBody {op : BcdOp} {x y : Reg} (hx : destinationOf i = some (.dreg x))
    (hf : SetsAll i) : Runs (Within i) (bcdRegBody op x y) := by
  have F := frame_within i
  exact F.bind (F.look _) fun v => F.bind (F.look _) fun d => F.bind (runs_bcdOp hf op d v) fun r =>
    F.bind (runs_storeD (mayWriteD_of_destination hx) .b r) fun _ => F.pure _

theorem runs_bcdMemBody {op : BcdOp} {x y : Reg} (hy : .preDec y ∈ operandsOf i)
    (hx : .preDec x ∈ operandsOf i) (hf : SetsAll i) : Runs (Within i) (bcdMemBody op x y) := by
  have F := frame_within i
  exact F.bind (runs_readPreDec hy .b) fun v => F.bind (runs_readPreDec hx .b) fun d =>
    F.bind (runs_bcdOp hf op d v) fun r => F.bind (F.look _) fun a =>
    F.bind (F.store _ .b a r) fun _ => F.pure _

/-- A kind of shift whose flags the instruction may set. -/
def ShiftWithin (i : Instr) (op : ShiftOp) : Prop :=
  SetsNZVC i ∧ ∀ sz d n, MaySet i fun old => (op old sz d n).2

theorem shiftWithin_all (h : SetsAll i) (op : ShiftOp) : ShiftWithin i op :=
  ⟨⟨h.1, h.2.1⟩, fun _ _ _ => maySet_all h _⟩

theorem shiftWithin_keepX (h : SetsNZVC i) {op : ShiftOp}
    (hop : ∀ old sz d n, (op old sz d n).2.x = old.x) : ShiftWithin i op :=
  ⟨h, fun sz d n => maySet_keepX h fun old => hop old sz d n⟩

theorem runs_shiftRegBody {op : ShiftOp} {xToC : Bool} {count : Count} {sz : Size} {y : Reg}
    (hy : destinationOf i = some (.dreg y)) (hop : ShiftWithin i op) :
    Runs (Within i) (shiftRegBody op xToC count sz y) := by
  have F := frame_within i
  refine F.bind (F.look _) fun n => F.bind (F.look _) fun d => F.bind (F.look _) fun old => ?_
  split
  · refine F.bind (F.look _) fun cfg =>
      F.bind (runs_setFlagsFrom (maySet_keepX hop.1 fun old => ?_)) fun _ => F.pure _
    unfold shiftZeroFlags
    split <;> rfl
  · exact F.bind (runs_storeD (mayWriteD_of_destination hy) sz _) fun _ =>
      F.bind (runs_setFlagsFrom (hop.2 sz d n)) fun _ => F.pure _

theorem runs_shiftMemBody {op : ShiftOp} {ea : EA} (ho : ea ∈ operandsOf i)
    (hd : destinationOf i = some ea) (hop : ShiftWithin i op) :
    Runs (Within i) (shiftMemBody op ea) := by
  have F := frame_within i
  exact F.bind (runs_modify ho hd .w fun d => F.bind (F.look _) fun _ =>
    F.bind (runs_setFlagsFrom (hop.2 .w d 1)) fun _ => F.pure _) fun _ => F.pure _

theorem runs_bitTestBody {bitno : Exec Long} {ea : EA} {cost : Cost} (ho : ea ∈ operandsOf i)
    (hk : keepsFlags i = false) (hb : Runs (Within i) bitno) :
    Runs (Within i) (bitTestBody bitno ea cost) := by
  have F := frame_within i
  exact F.bind hb fun _ => F.bind (runs_source ho _) fun v =>
    F.bind (runs_setZFromBit hk v _) fun _ => F.pure _

theorem runs_bitChangeBody {op : BitOp} {bitno : Exec Long} {ea : EA} {cost : Cost}
    (ho : ea ∈ operandsOf i) (hd : destinationOf i = some ea) (hk : keepsFlags i = false)
    (hb : Runs (Within i) bitno) : Runs (Within i) (bitChangeBody op bitno ea cost) := by
  have F := frame_within i
  exact F.bind hb fun _ => F.bind (runs_modify ho hd _ fun v =>
    F.bind (runs_setZFromBit hk v _) fun _ => F.pure _) fun _ => F.pure _

theorem runs_dynamicBit (x : Reg) : Runs (Within i) (dynamicBit x) := (frame_within i).look _

theorem runs_staticBit : Runs (Within i) staticBit :=
  (frame_within i).calmly (calmly_immediate .b)

/-! ### Data movement and control -/

theorem runs_moveBody {sz : Size} {src dst : EA} (hs : src ∈ operandsOf i)
    (ht : dst ∈ operandsOf i) (hd : destinationOf i = some dst) (hf : SetsNZVC i) :
    Runs (Within i) (moveBody sz src dst) := by
  have F := frame_within i
  refine F.bind (runs_source hs sz) fun v => F.seq (runs_resolveEa ht sz) fun loc s t e => ?_
  exact F.bind (runs_writeLoc hd (resolveEa_fits sz dst s loc t e) sz v) fun _ =>
    F.bind (runs_setLogic hf sz v) fun _ => F.pure _

theorem runs_moveaBody {sz : Size} {src : EA} {x : Reg} (hs : src ∈ operandsOf i)
    (hx : destinationOf i = some (.areg x)) : Runs (Within i) (moveaBody sz src x) := by
  have F := frame_within i
  exact F.bind (runs_source hs sz) fun _ =>
    F.bind (runs_storeA (mayWriteA_of_destination hx) _) fun _ => F.pure _

theorem runs_storeDown (mask : Word) (sz : Size) (is : List (Fin 16)) (a : Long) :
    Runs (Within i) (storeDown mask sz is a) := by
  have F := frame_within i
  induction is generalizing a with
  | nil => exact F.pure a
  | cons r is ih =>
    unfold storeDown
    split
    · exact F.bind (F.look _) fun _ => F.bind (F.store _ sz _ _) fun _ => ih _
    · exact ih a

theorem runs_storeUp (mask : Word) (sz : Size) (is : List (Fin 16)) (a : Long) :
    Runs (Within i) (storeUp mask sz is a) := by
  have F := frame_within i
  induction is generalizing a with
  | nil => exact F.pure a
  | cons r is ih =>
    unfold storeUp
    split
    · exact F.bind (F.look _) fun _ => F.bind (F.store _ sz _ _) fun _ => ih _
    · exact ih a

theorem runs_loadUp (hD : ∀ n, mayWriteD i n = true) (hA : ∀ n, mayWriteA i n = true)
    (mask : Word) (sz : Size) (loc : Loc) (is : List (Fin 16)) (a : Long) :
    Runs (Within i) (loadUp mask sz loc is a) := by
  have F := frame_within i
  induction is generalizing a with
  | nil => exact F.pure a
  | cons r is ih =>
    unfold loadUp
    split
    · exact F.bind (F.calmly (calmly_readAtLoc loc sz a)) fun v =>
        F.bind (runs_writeR hD hA r _) fun _ => ih _
    · exact ih a

theorem runs_movemStoreBody {sz : Size} {ea : EA} (ho : ea ∈ operandsOf i) :
    Runs (Within i) (movemStoreBody sz ea) := by
  have F := frame_within i
  refine F.bind (F.calmly calmly_fetchWord) fun mask => ?_
  split
  · exact F.bind (F.look _) fun _ => F.bind (runs_storeDown mask sz _ _) fun a =>
      F.bind (runs_storeA (mayWriteA_of_operand ho rfl) a) fun _ => F.pure _
  · exact F.bind (runs_resolveEa ho sz) fun loc => F.bind (F.calmly (calmly_addrOf loc)) fun _ =>
      F.bind (runs_storeUp mask sz _ _) fun _ => F.pure _

theorem calmly_movemDummyRead (loc : Loc) (a : Long) (s : State) :
    Calmly w (movemDummyRead loc a) s := by
  refine calmly_bind (calmly_look _ s) fun cfg t _ => ?_
  split
  · exact calmly_bind (calmly_readAtLoc loc .w a t) fun _ u _ => calmly_pure _ u
  · exact calmly_pure _ t

theorem runs_movemLoadBody {sz : Size} {ea : EA} (ho : ea ∈ operandsOf i)
    (hD : ∀ n, mayWriteD i n = true) (hA : ∀ n, mayWriteA i n = true) :
    Runs (Within i) (movemLoadBody sz ea) := by
  have F := frame_within i
  refine F.bind (F.calmly calmly_fetchWord) fun mask => ?_
  split
  · exact F.bind (F.look _) fun _ => F.bind (runs_loadUp hD hA mask sz _ _ _) fun a =>
      F.bind (F.calmly (calmly_movemDummyRead _ a)) fun _ => F.bind (runs_storeA (hA _) a) fun _ =>
      F.pure _
  · exact F.bind (runs_resolveEa ho sz) fun loc => F.bind (F.calmly (calmly_addrOf loc)) fun _ =>
      F.bind (runs_loadUp hD hA mask sz loc _ _) fun a =>
      F.bind (F.calmly (calmly_movemDummyRead loc a)) fun _ => F.pure _

theorem calmly_movepAddr (y : Reg) (s : State) : Calmly w (movepAddr y) s :=
  calmly_bind (calmly_fetchDisp s) fun _ t _ => calmly_bind (calmly_look _ t) fun _ u _ =>
    calmly_pure _ u

theorem calmly_readAlternate (k : Nat) (a acc : Long) (s : State) :
    Calmly w (readAlternate k a acc) s := by
  induction k generalizing a acc s with
  | zero => exact calmly_pure acc s
  | succ k ih => exact calmly_bind (calmly_memRead _ .b a s) fun _ t _ => ih _ _ t

theorem runs_writeAlternate (k : Nat) (a v : Long) : Runs (Within i) (writeAlternate k a v) := by
  have F := frame_within i
  induction k generalizing a with
  | zero => exact F.pure ()
  | succ k ih => exact F.bind (F.store _ .b a _) fun _ => ih _

theorem runs_movepLoad {x y : Reg} {k : Nat} {sz : Size} {cost : Cost}
    (hx : destinationOf i = some (.dreg x)) :
    Runs (Within i) (do
      let a ← movepAddr y
      let v ← readAlternate k a 0
      storeD sz x v
      pure (Done.completed cost)) :=
  have F := frame_within i
  F.bind (F.calmly (calmly_movepAddr y)) fun a => F.bind (F.calmly (calmly_readAlternate k a 0))
    fun v => F.bind (runs_storeD (mayWriteD_of_destination hx) sz v) fun _ => F.pure _

theorem runs_movepStore {x y : Reg} {k : Nat} {cost : Cost} :
    Runs (Within i) (do
      let a ← movepAddr y
      let v ← loadD .l x
      writeAlternate k a v
      pure (Done.completed cost)) :=
  have F := frame_within i
  F.bind (F.calmly (calmly_movepAddr y)) fun a => F.bind (F.look _) fun v =>
    F.bind (runs_writeAlternate k a v) fun _ => F.pure _

theorem runs_callTo (h : usesStack i = true) (target : Long) :
    Runs (Within i) (callTo target) := by
  have F := frame_within i
  exact F.bind (F.look _) fun _ => F.bind (runs_push h .l _) fun _ => F.bind (F.look _) fun sp =>
    F.bind (F.calmly (calmly_hazardCheck target sp 4)) fun _ => runs_setPc _

theorem runs_branchBody {cost : Bool → Cost} {cond : Cond} {d8 : Byte} :
    Runs (Within i) (branchBody cost cond d8) := by
  have F := frame_within i
  refine F.bind (F.look _) fun _ => F.bind (F.calmly (calmly_branchDisp d8)) fun _ =>
    F.bind (F.look _) fun taken => ?_
  split
  · exact F.bind (runs_setPc _) fun _ => F.pure _
  · exact F.bind (F.pure _) fun _ => F.pure _

theorem runs_immCcrBody {op : BitVec 5 → BitVec 5 → BitVec 5} (h : SetsAll i) :
    Runs (Within i) (immCcrBody op) := by
  have F := frame_within i
  exact F.bind (F.calmly calmly_fetchWord) fun _ => F.bind (runs_setCcr h _) fun _ => F.pure _

end Sys2Proof.Machine
end

section
/-!
SUPPORT. What the meaning of every instruction is made of: a body within what the instruction may
change, at the end of which the SR rows, STOP and MOVE to USP make the one write that is theirs; or
an exception raised at decode.
-/

namespace Sys2Proof.Machine

variable {α β : Type} {s t u : State} {i : Instr}

/-! ### The last write of the privileged rows -/

/-- The whole change of a body: what the instruction may change, then the write of SR (R464-R466,
R468, R472), of SR and `stopped` (R475), or of USP (R470), by the rows that have one. -/
inductive Final (i : Instr) : State → State → Prop
  | plain {s t : State} (h : Within i s t) : Final i s t
  | sr {s t : State} (v : Word) (hi : writesSr i = true) (h : Within i s t) : Final i s (t.setSr v)
  | stop {s t : State} (v : Word) (hi : i = .stop) (h : Within i s t) :
      Final i s { t.setSr v with stopped := true }
  | usp {s t : State} (y : Reg) (v : Long) (hi : i = .moveToUsp y) (h : Within i s t) :
      Final i s { t with usp := v }

theorem Within.refl (i : Instr) (s : State) : Within i s s := (frame_within i).refl s

theorem Within.final (h : Within i s t) (k : Final i t u) : Final i s u := by
  cases k with
  | plain k => exact .plain (h.trans k)
  | sr v hi k => exact .sr v hi (h.trans k)
  | stop v hi k => exact .stop v hi (h.trans k)
  | usp y v hi k => exact .usp y v hi (h.trans k)

theorem Final.modeKept (h : Final i s t) : ModeKept s t := by
  cases h with
  | plain h => exact h.modeKept
  | sr v _ h => exact h.modeKept.trans (modeKept_setSr _ v)
  | stop v _ h => exact h.modeKept.trans (.of_registers rfl fun hs => ⟨masked_valid v, hs.2⟩)
  | usp y v _ h => exact h.modeKept.trans (.of_registers rfl id)

/-- A body that makes its last write after parts that stay within the instruction. -/
theorem runs_final {x : Exec α} {f : α → Exec β} (hx : Runs (Within i) x)
    (hf : ∀ a, Runs (Final i) (f a)) : Runs (Final i) (x >>= f) :=
  runs_seq Within.final (fun h => h.modeKept.toTraced) hx fun a _ _ _ => hf a

/-- Answering a value after the last part. -/
theorem runs_thenPure {P : State → State → Prop} {x : Exec α} (hx : Runs P x) (b : β) :
    Runs P (x >>= fun _ => (pure b : Exec β)) := by
  refine fun s => ⟨fun c u e => ?_, fun u e => ?_⟩
  · obtain ⟨a, t, e1, e2⟩ := ok_of_bind e
    cases e2
    exact (hx s).1 a _ e1
  · rcases error_of_bind e with e1 | ⟨a, t, -, e2⟩
    · exact (hx s).2 u e1
    · cases e2

theorem runs_setSr (hi : writesSr i = true) (g : State → Word) :
    Runs (Final i) (update fun s => s.setSr (g s)) :=
  runs_update fun s => .sr _ hi (.refl i s)

theorem runs_immSrBody {op : Word → Word → Word} (hi : writesSr i = true) :
    Runs (Final i) (immSrBody op) :=
  runs_final ((frame_within i).calmly calmly_fetchWord) fun _ => runs_thenPure (runs_setSr hi _) _

theorem runs_returnFromException (hi : writesSr i = true) (hs : usesStack i = true) :
    Runs (Final i) returnFromException :=
  runs_final (runs_pop hs .w) fun _ => runs_final (runs_pop hs .l) fun np =>
    runs_update fun s => .sr _ hi (.of_calm (.setPc s np))

/-! ### The meanings -/

/-- How the meaning of an instruction is made. -/
inductive Meaning (i : Instr) : Prop
  | plain {body : Exec Done} (he : ∀ s, exec i s = perform body s)
      (hb : Runs (Within i) body) : Meaning i
  | privileged {body : Exec Done} (he : ∀ s, exec i s = Machine.privileged body s)
      (hb : Runs (Final i) body) : Meaning i
  | illegal {v : Byte} (he : ∀ s, exec i s = illegalException v s) : Meaning i

/-- The same, with the equation of the dispatch left to `rfl`. -/
theorem Meaning.of {body : Exec Done} (hb : Runs (Within i) body)
    (he : ∀ s, exec i s = perform body s := by exact fun _ => rfl) : Meaning i := .plain he hb

theorem meaning_cmpi (sz : Size) (ea : EA) : Meaning (.cmpi sz ea) :=
  have F := frame_within (.cmpi sz ea)
  .plain (fun _ => rfl) <| F.bind (F.calmly (calmly_immediate sz)) fun v =>
    F.bind (runs_source (.head _) sz) fun d => F.bind (runs_cmpOp ⟨rfl, rfl⟩ sz d v) fun _ =>
    F.pure _

theorem meaning_cmpm (x : Reg) (sz : Size) (y : Reg) : Meaning (.cmpm x sz y) :=
  have F := frame_within (.cmpm x sz y)
  .plain (fun _ => rfl) <| F.bind (runs_readPostInc (.head _) sz) fun v =>
    F.bind (runs_readPostInc (.tail _ (.head _)) sz) fun d =>
    F.bind (runs_cmpOp ⟨rfl, rfl⟩ sz d v) fun _ => F.pure _

theorem meaning_tst (sz : Size) (ea : EA) : Meaning (.tst sz ea) :=
  have F := frame_within (.tst sz ea)
  .plain (fun _ => rfl) <| F.bind (runs_source (.head _) sz) fun v =>
    F.bind (runs_setLogic ⟨rfl, rfl⟩ sz v) fun _ => F.pure _

theorem meaning_clr (sz : Size) (ea : EA) : Meaning (.clr sz ea) :=
  have F := frame_within (.clr sz ea)
  .plain (fun _ => rfl) <| F.seq (runs_resolveEa (.head _) sz) fun loc s t e =>
    F.bind (F.calmly (calmly_dummyRead sz loc)) fun _ =>
    F.bind (runs_writeLoc rfl (resolveEa_fits sz ea s loc t e) sz 0) fun _ =>
    F.bind (runs_setLogic ⟨rfl, rfl⟩ sz 0) fun _ => F.pure _

theorem meaning_scc (cond : Cond) (ea : EA) : Meaning (.scc cond ea) :=
  have F := frame_within (.scc cond ea)
  .plain (fun _ => rfl) <| F.seq (runs_resolveEa (.head _) .b) fun loc s t e =>
    F.bind (F.calmly (calmly_dummyRead .b loc)) fun _ => F.bind (F.look _) fun _ =>
    F.bind (runs_writeLoc rfl (resolveEa_fits .b ea s loc t e) .b _) fun _ => F.pure _

theorem meaning_moveFromSr (ea : EA) : Meaning (.moveFromSr ea) :=
  have F := frame_within (.moveFromSr ea)
  .plain (fun _ => rfl) <| F.seq (runs_resolveEa (.head _) .w) fun loc s t e =>
    F.bind (F.calmly (calmly_dummyRead .w loc)) fun _ => F.bind (F.look _) fun _ =>
    F.bind (runs_writeLoc rfl (resolveEa_fits .w ea s loc t e) .w _) fun _ => F.pure _

/-- Storing a result in the destination register and setting the flags of a logical result. -/
theorem runs_storeLogic {x : Reg} {sz : Size} {v : Long} {cost : Cost}
    (hx : destinationOf i = some (.dreg x)) (hf : SetsNZVC i) :
    Runs (Within i) (do
      storeD sz x v
      setLogic sz v
      pure (Done.completed cost)) :=
  have F := frame_within i
  F.bind (runs_storeD (mayWriteD_of_destination hx) sz v) fun _ =>
    F.bind (runs_setLogic hf sz v) fun _ => F.pure _

theorem meaning_extW (y : Reg) : Meaning (.extW y) := by
  refine .plain (fun _ => by rw [exec, execExtW]) ?_
  exact (frame_within _).bind ((frame_within _).look _) fun _ => runs_storeLogic rfl ⟨rfl, rfl⟩

theorem meaning_extL (y : Reg) : Meaning (.extL y) := by
  refine .plain (fun _ => by rw [exec, execExtL]) ?_
  exact (frame_within _).bind ((frame_within _).look _) fun _ => runs_storeLogic rfl ⟨rfl, rfl⟩

theorem meaning_swap (y : Reg) : Meaning (.swap y) := by
  refine .plain (fun _ => by rw [exec, execSwap]) ?_
  exact (frame_within _).bind ((frame_within _).look _) fun _ => runs_storeLogic rfl ⟨rfl, rfl⟩

theorem meaning_moveq (x : Reg) (d8 : Byte) : Meaning (.moveq x d8) := by
  refine .plain (fun _ => by rw [exec, execMoveq]) ?_
  exact runs_storeLogic rfl ⟨rfl, rfl⟩

theorem meaning_mulu (x : Reg) (ea : EA) : Meaning (.mulu x ea) := by
  have F := frame_within (.mulu x ea)
  refine .plain (fun _ => rfl) ?_
  exact F.bind (runs_source (.head _) .w) fun _ => F.bind (F.look _) fun _ =>
    runs_storeLogic rfl ⟨rfl, rfl⟩

theorem meaning_muls (x : Reg) (ea : EA) : Meaning (.muls x ea) := by
  have F := frame_within (.muls x ea)
  refine .plain (fun _ => rfl) ?_
  exact F.bind (runs_source (.head _) .w) fun _ => F.bind (F.look _) fun _ =>
    runs_storeLogic rfl ⟨rfl, rfl⟩

/-- The two divisions, from the divisor on: zero divide, or the quotient and remainder. -/
theorem runs_divide {x : Reg} {ea : EA} {divisor : Word}
    {result : Long → Option (Word × Word)} {cost : Long → Cost}
    (hx : destinationOf i = some (.dreg x)) (hf : SetsNZVC i) :
    Runs (Within i) (if divisor = 0 then zeroDivide ea
      else do
        let d ← loadD .l x
        divideResult x (result d)
        pure (Done.completed (cost d))) := by
  have F := frame_within i
  split
  · exact runs_zeroDivide hf ea
  · exact F.bind (F.look _) fun _ =>
      F.bind (runs_divideResult hx hf _) fun _ => F.pure _

theorem meaning_divu (x : Reg) (ea : EA) : Meaning (.divu x ea) := by
  refine .plain (fun _ => rfl) ?_
  exact (frame_within _).bind (runs_source (.head _) .w) fun _ => runs_divide rfl ⟨rfl, rfl⟩

theorem meaning_divs (x : Reg) (ea : EA) : Meaning (.divs x ea) := by
  refine .plain (fun _ => rfl) ?_
  exact (frame_within _).bind (runs_source (.head _) .w) fun _ => runs_divide rfl ⟨rfl, rfl⟩

theorem meaning_chk (x : Reg) (ea : EA) : Meaning (.chk x ea) := by
  have F := frame_within (.chk x ea)
  have flags {f : Flags → Flags} {done : Done} (hf : ∀ old, (f old).x = old.x) :
      Runs (Within (.chk x ea)) (setFlagsFrom f >>= fun _ => pure done) :=
    F.bind (runs_setFlagsFrom (maySet_keepX ⟨rfl, rfl⟩ hf)) fun _ => F.pure _
  refine .plain (fun _ => rfl) (F.bind (runs_source (.head _) .w) fun _ =>
    F.bind (F.look _) fun _ => F.bind (F.calmly calmly_drawBit) fun _ =>
    F.bind (F.calmly calmly_drawBit) fun _ => F.bind (F.calmly calmly_drawBit) fun _ => ?_)
  split
  · exact flags fun _ => rfl
  · split
    · exact flags fun _ => rfl
    · exact F.bind (F.calmly calmly_drawBit) fun _ => flags fun _ => rfl

theorem meaning_tas (ea : EA) : Meaning (.tas ea) := by
  have F := frame_within (.tas ea)
  refine .plain (fun _ => rfl) (F.seq (runs_resolveEa (.head _) .b) fun loc s t e =>
    F.bind (F.calmly (calmly_readLoc .b loc)) fun v =>
    F.bind (runs_setLogic ⟨rfl, rfl⟩ .b v) fun _ => ?_)
  have hl := resolveEa_fits .b ea s loc t e
  split
  · next n =>
    exact F.bind (runs_storeD (mayWriteD_of_destination (by rw [← hl.1 n rfl]; rfl)) .b _) fun _ =>
      F.pure _
  · refine F.bind (F.look _) fun h => F.bind (F.calmly (calmly_callHandler _ _ _)) fun allow => ?_
    split
    · exact F.bind (runs_writeLoc rfl hl .b _) fun _ => F.pure _
    · exact F.bind (F.pure _) fun _ => F.pure _

theorem meaning_moveToCcr (ea : EA) : Meaning (.moveToCcr ea) :=
  have F := frame_within (.moveToCcr ea)
  .plain (fun _ => rfl) <| F.bind (runs_source (.head _) .w) fun _ =>
    F.bind (runs_setCcr ⟨rfl, rfl, rfl⟩ _) fun _ => F.pure _

/-! ### Control, stacks and addresses -/

theorem meaning_bsr (d8 : Byte) : Meaning (.bsr d8) :=
  have F := frame_within (.bsr d8)
  .plain (fun _ => rfl) <| F.bind (F.look _) fun _ =>
    F.bind (F.calmly (calmly_branchDisp d8)) fun _ => F.bind (runs_callTo rfl _) fun _ => F.pure _

theorem meaning_dbcc (cond : Cond) (y : Reg) : Meaning (.dbcc cond y) := by
  have F := frame_within (.dbcc cond y)
  refine .plain (fun _ => rfl) (F.bind (F.look _) fun _ =>
    F.bind (F.calmly calmly_fetchDisp) fun _ => F.bind (F.look _) fun stay => ?_)
  split
  · exact F.pure _
  · refine F.bind (F.look _) fun _ =>
      F.bind (runs_storeD (mayWriteD_of_destination rfl) .w _) fun _ => ?_
    split
    · exact F.bind (runs_setPc _) fun _ => F.pure _
    · exact F.pure _

theorem meaning_jmp (ea : EA) : Meaning (.jmp ea) :=
  have F := frame_within (.jmp ea)
  .plain (fun _ => rfl) <| F.bind (runs_resolveEa (.head _) .l) fun loc =>
    F.bind (F.calmly (calmly_addrOf loc)) fun _ => F.bind (runs_setPc _) fun _ => F.pure _

theorem meaning_jsr (ea : EA) : Meaning (.jsr ea) :=
  have F := frame_within (.jsr ea)
  .plain (fun _ => rfl) <| F.bind (runs_resolveEa (.head _) .l) fun loc =>
    F.bind (F.calmly (calmly_addrOf loc)) fun a => F.bind (runs_callTo rfl a) fun _ => F.pure _

theorem meaning_rts : Meaning .rts :=
  have F := frame_within .rts
  .plain (fun _ => rfl) <| F.bind (runs_pop rfl .l) fun _ => F.bind (runs_setPc _) fun _ =>
    F.pure _

theorem meaning_rtr : Meaning .rtr :=
  have F := frame_within .rtr
  .plain (fun _ => rfl) <| F.bind (runs_pop rfl .w) fun _ =>
    F.bind (runs_setCcr ⟨rfl, rfl, rfl⟩ _) fun _ => F.bind (runs_pop rfl .l) fun _ =>
    F.bind (runs_setPc _) fun _ => F.pure _

theorem meaning_nop : Meaning .nop := by
  refine .plain (fun _ => by rw [exec, execNop]) ?_
  exact (frame_within _).pure _

theorem meaning_trap (v : Fin 16) : Meaning (.trap v) := by
  refine .plain (fun _ => by rw [exec, execTrap]) ?_
  exact (frame_within _).pure _

theorem meaning_trapv : Meaning .trapv := by
  have F := frame_within .trapv
  refine .plain (fun _ => rfl) (F.bind (F.look _) fun v => ?_)
  split
  · exact F.pure _
  · exact F.pure _

theorem meaning_lea (x : Reg) (ea : EA) : Meaning (.lea x ea) :=
  have F := frame_within (.lea x ea)
  .plain (fun _ => rfl) <| F.bind (runs_resolveEa (.head _) .l) fun loc =>
    F.bind (F.calmly (calmly_addrOf loc)) fun a =>
    F.bind (runs_storeA (mayWriteA_of_destination rfl) a) fun _ => F.pure _

theorem meaning_pea (ea : EA) : Meaning (.pea ea) :=
  have F := frame_within (.pea ea)
  .plain (fun _ => rfl) <| F.bind (runs_resolveEa (.head _) .l) fun loc =>
    F.bind (F.calmly (calmly_addrOf loc)) fun a => F.bind (runs_push rfl .l a) fun _ => F.pure _

theorem meaning_exgDD (x y : Reg) : Meaning (.exgDD x y) := by
  have F := frame_within (.exgDD x y)
  refine .plain (fun _ => by rw [exec, execExgDD]) ?_
  exact F.bind (F.look _) fun _ => F.bind (F.look _) fun _ =>
    F.bind (runs_storeD (n := x) (by simp [mayWriteD]) .l _) fun _ =>
    F.bind (runs_storeD (n := y) (by simp [mayWriteD]) .l _) fun _ => F.pure _

theorem meaning_exgAA (x y : Reg) : Meaning (.exgAA x y) := by
  have F := frame_within (.exgAA x y)
  refine .plain (fun _ => by rw [exec, execExgAA]) ?_
  exact F.bind (F.look _) fun _ => F.bind (F.look _) fun _ =>
    F.bind (runs_storeA (n := x) (by simp [mayWriteA]) _) fun _ =>
    F.bind (runs_storeA (n := y) (by simp [mayWriteA]) _) fun _ => F.pure _

theorem meaning_exgDA (x y : Reg) : Meaning (.exgDA x y) := by
  have F := frame_within (.exgDA x y)
  refine .plain (fun _ => by rw [exec, execExgDA]) ?_
  exact F.bind (F.look _) fun _ => F.bind (F.look _) fun _ =>
    F.bind (runs_storeD (n := x) (by simp [mayWriteD]) .l _) fun _ =>
    F.bind (runs_storeA (n := y) (by simp [mayWriteA]) _) fun _ => F.pure _

theorem runs_moveSp (h : usesStack i = true) (g : State → Long) :
    Runs (Within i) (update fun s => s.setActiveSp (g s)) :=
  runs_update fun s => within_setActiveSp (mayWriteA_of_stack h) s _

theorem meaning_link (y : Reg) : Meaning (.link y) :=
  have F := frame_within (.link y)
  .plain (fun _ => rfl) <| F.bind (F.calmly calmly_fetchDisp) fun _ =>
    F.bind (runs_moveSp rfl _) fun _ => F.bind (F.look _) fun _ => F.bind (F.look _) fun _ =>
    F.bind (F.store _ _ _ _) fun _ =>
    F.bind (runs_storeA (mayWriteA_of_destination rfl) _) fun _ =>
    F.bind (runs_moveSp rfl _) fun _ => F.pure _

theorem meaning_unlk (y : Reg) : Meaning (.unlk y) := by
  have F := frame_within (.unlk y)
  have put (v : Long) : Runs (Within (.unlk y)) (storeA y v) :=
    runs_storeA (mayWriteA_of_destination rfl) v
  refine .plain (fun _ => rfl) (F.bind (F.look _) fun _ =>
    F.bind (runs_moveSp rfl _) fun _ => F.bind (runs_pop rfl .l) fun v => ?_)
  split
  · exact F.bind (F.calmly calmly_drawBit) fun _ => F.bind (put _) fun _ => F.pure _
  · exact F.bind (put v) fun _ => F.pure _

/-! ### The privileged rows -/

theorem meaning_moveToSr (ea : EA) : Meaning (.moveToSr ea) :=
  .privileged (fun _ => rfl) <| runs_final (runs_source (.head _) .w) fun _ =>
    runs_thenPure (runs_setSr rfl _) _

theorem meaning_moveToUsp (y : Reg) : Meaning (.moveToUsp y) :=
  .privileged (fun _ => rfl) <| runs_thenPure (runs_update fun s => .usp y _ rfl (.refl _ s)) _

theorem meaning_moveFromUsp (y : Reg) : Meaning (.moveFromUsp y) :=
  .privileged (fun _ => rfl) <| runs_thenPure
    (runs_update fun s => .plain (within_writeA (mayWriteA_of_destination rfl) s _)) _

theorem meaning_rte : Meaning .rte :=
  .privileged (fun _ => rfl) <| runs_thenPure (runs_returnFromException rfl rfl) _

theorem meaning_reset : Meaning .reset :=
  have F := frame_within .reset
  .privileged (fun _ => rfl) <| runs_mono .plain <| F.bind (F.look _) fun _ =>
    F.bind (F.calmly (calmly_callHandler _ _ _)) fun _ => F.pure _

theorem meaning_stop : Meaning .stop :=
  have F := frame_within .stop
  .privileged (fun _ => rfl) <| runs_final (F.calmly calmly_fetchWord) fun w =>
    runs_thenPure (runs_update fun s => .stop w rfl (.refl _ s)) _

/-! ### Every instruction -/

theorem setsAll_addqWL {q : Reg} {sz : Size} {ea : EA} (h : ∀ n, ea ≠ .areg n) :
    SetsAll (.addqWL q sz ea) := by
  cases ea with
  | areg n => exact absurd rfl (h n)
  | _ => exact ⟨rfl, rfl, rfl⟩

theorem setsAll_subqWL {q : Reg} {sz : Size} {ea : EA} (h : ∀ n, ea ≠ .areg n) :
    SetsAll (.subqWL q sz ea) := by
  cases ea with
  | areg n => exact absurd rfl (h n)
  | _ => exact ⟨rfl, rfl, rfl⟩

/-- The meaning of every instruction stays within what the instruction may change. -/
theorem meaning (i : Instr) : Meaning i :=
  match i with
  | .moveB _ _ | .moveW _ _ | .moveL _ _ =>
    .of (runs_moveBody (.head _) (.tail _ (.head _)) rfl ⟨rfl, rfl⟩)
  | .moveaW _ _ | .moveaL _ _ => .of (runs_moveaBody (.head _) rfl)
  | .movemWR2M _ | .movemLR2M _ => .of (runs_movemStoreBody (.head _))
  | .movemWM2R _ | .movemLM2R _ =>
    .of (runs_movemLoadBody (.head _) (fun _ => rfl) fun _ => by simp [mayWriteA])
  | .addEaDB _ _ | .addEaDWL _ _ _ =>
    .of (runs_toRegBody (.head _) rfl (opWithin_addOp ⟨rfl, rfl, rfl⟩))
  | .subEaDB _ _ | .subEaDWL _ _ _ =>
    .of (runs_toRegBody (.head _) rfl (opWithin_subOp ⟨rfl, rfl, rfl⟩))
  | .andEaD _ _ _ => .of (runs_toRegBody (.head _) rfl (opWithin_andOp ⟨rfl, rfl⟩))
  | .orEaD _ _ _ => .of (runs_toRegBody (.head _) rfl (opWithin_orOp ⟨rfl, rfl⟩))
  | .addDEa _ _ _ => .of (runs_toMemBody (.head _) rfl (opWithin_addOp ⟨rfl, rfl, rfl⟩))
  | .subDEa _ _ _ => .of (runs_toMemBody (.head _) rfl (opWithin_subOp ⟨rfl, rfl, rfl⟩))
  | .andDEa _ _ _ => .of (runs_toMemBody (.head _) rfl (opWithin_andOp ⟨rfl, rfl⟩))
  | .orDEa _ _ _ => .of (runs_toMemBody (.head _) rfl (opWithin_orOp ⟨rfl, rfl⟩))
  | .eor _ _ _ => .of (runs_toMemBody (.head _) rfl (opWithin_eorOp ⟨rfl, rfl⟩))
  | .addi _ _ => .of (runs_immBody (.head _) rfl (opWithin_addOp ⟨rfl, rfl, rfl⟩))
  | .subi _ _ => .of (runs_immBody (.head _) rfl (opWithin_subOp ⟨rfl, rfl, rfl⟩))
  | .andi _ _ => .of (runs_immBody (.head _) rfl (opWithin_andOp ⟨rfl, rfl⟩))
  | .ori _ _ => .of (runs_immBody (.head _) rfl (opWithin_orOp ⟨rfl, rfl⟩))
  | .eori _ _ => .of (runs_immBody (.head _) rfl (opWithin_eorOp ⟨rfl, rfl⟩))
  | .addqB _ _ => .of (runs_quickBody (.head _) rfl fun _ => opWithin_addOp ⟨rfl, rfl, rfl⟩)
  | .addqWL _ _ _ => .of (runs_quickBody (.head _) rfl fun h => opWithin_addOp (setsAll_addqWL h))
  | .subqB _ _ => .of (runs_quickBody (.head _) rfl fun _ => opWithin_subOp ⟨rfl, rfl, rfl⟩)
  | .subqWL _ _ _ => .of (runs_quickBody (.head _) rfl fun h => opWithin_subOp (setsAll_subqWL h))
  | .addaW _ _ | .addaL _ _ | .subaW _ _ | .subaL _ _ => .of (runs_toAddrBody (.head _) rfl)
  | .addxR _ _ _ => .of (runs_extendedRegBody rfl (opWithin_addXOp ⟨rfl, rfl, rfl⟩))
  | .subxR _ _ _ => .of (runs_extendedRegBody rfl (opWithin_subXOp ⟨rfl, rfl, rfl⟩))
  | .addxM _ _ _ =>
    .of (runs_extendedMemBody (.head _) (.tail _ (.head _)) (opWithin_addXOp ⟨rfl, rfl, rfl⟩))
  | .subxM _ _ _ =>
    .of (runs_extendedMemBody (.head _) (.tail _ (.head _)) (opWithin_subXOp ⟨rfl, rfl, rfl⟩))
  | .cmpB _ _ | .cmpWL _ _ _ => .of (runs_cmpBody (.head _) ⟨rfl, rfl⟩)
  | .cmpaW _ _ | .cmpaL _ _ => .of (runs_cmpaBody (.head _) ⟨rfl, rfl⟩)
  | .abcdR _ _ | .sbcdR _ _ => .of (runs_bcdRegBody rfl ⟨rfl, rfl, rfl⟩)
  | .abcdM _ _ | .sbcdM _ _ => .of (runs_bcdMemBody (.head _) (.tail _ (.head _)) ⟨rfl, rfl, rfl⟩)
  | .asrR _ _ _ | .aslR _ _ _ | .lsrR _ _ _ | .lslR _ _ _ | .roxrR _ _ _ | .roxlR _ _ _ =>
    .of (runs_shiftRegBody rfl (shiftWithin_all ⟨rfl, rfl, rfl⟩ _))
  | .rorR _ _ _ | .rolR _ _ _ =>
    .of (runs_shiftRegBody rfl (shiftWithin_keepX ⟨rfl, rfl⟩ fun _ _ _ _ => rfl))
  | .asrM _ | .aslM _ | .lsrM _ | .lslM _ | .roxrM _ | .roxlM _ =>
    .of (runs_shiftMemBody (.head _) rfl (shiftWithin_all ⟨rfl, rfl, rfl⟩ _))
  | .rorM _ | .rolM _ =>
    .of (runs_shiftMemBody (.head _) rfl (shiftWithin_keepX ⟨rfl, rfl⟩ fun _ _ _ _ => rfl))
  | .btstD _ _ => .of (runs_bitTestBody (.head _) rfl (runs_dynamicBit _))
  | .btstS _ => .of (runs_bitTestBody (.head _) rfl runs_staticBit)
  | .bchgD _ _ | .bclrD _ _ | .bsetD _ _ =>
    .of (runs_bitChangeBody (.head _) rfl rfl (runs_dynamicBit _))
  | .bchgS _ | .bclrS _ | .bsetS _ => .of (runs_bitChangeBody (.head _) rfl rfl runs_staticBit)
  | .bcc _ _ | .bra _ => .of runs_branchBody
  | .andiCcr | .oriCcr | .eoriCcr => .of (runs_immCcrBody ⟨rfl, rfl, rfl⟩)
  | .trap v => meaning_trap v
  | .andiSr | .oriSr | .eoriSr => .privileged (fun _ => rfl) (runs_immSrBody rfl)
  | .illegal | .lineA _ | .lineF _ => .illegal fun _ => rfl
  | .cmpi sz ea => meaning_cmpi sz ea
  | .movepWM2R _ _ | .movepLM2R _ _ => .of (runs_movepLoad rfl)
  | .movepWR2M _ _ | .movepLR2M _ _ => .of runs_movepStore
  | .moveFromSr ea => meaning_moveFromSr ea
  | .moveToCcr ea => meaning_moveToCcr ea
  | .moveToSr ea => meaning_moveToSr ea
  | .negx sz _ =>
    .of (runs_modifyDone (.head _) rfl fun d => opWithin_subXOp ⟨rfl, rfl, rfl⟩ sz 0 d)
  | .clr sz ea => meaning_clr sz ea
  | .neg sz _ =>
    .of (runs_modifyDone (.head _) rfl fun d => opWithin_subOp ⟨rfl, rfl, rfl⟩ sz 0 d)
  | .notEa sz _ =>
    .of (runs_modifyDone (.head _) rfl fun _ => runs_logicOp ⟨rfl, rfl⟩ sz _)
  | .tst sz ea => meaning_tst sz ea
  | .nbcd _ =>
    .of (runs_modifyDone (.head _) rfl fun d => runs_bcdOp ⟨rfl, rfl, rfl⟩ .nbcd d 0)
  | .swap y => meaning_swap y
  | .pea ea => meaning_pea ea
  | .extW y => meaning_extW y
  | .extL y => meaning_extL y
  | .tas ea => meaning_tas ea
  | .chk x ea => meaning_chk x ea
  | .lea x ea => meaning_lea x ea
  | .link y => meaning_link y
  | .unlk y => meaning_unlk y
  | .moveToUsp y => meaning_moveToUsp y
  | .moveFromUsp y => meaning_moveFromUsp y
  | .reset => meaning_reset
  | .nop => meaning_nop
  | .stop => meaning_stop
  | .rte => meaning_rte
  | .rts => meaning_rts
  | .trapv => meaning_trapv
  | .rtr => meaning_rtr
  | .jsr ea => meaning_jsr ea
  | .jmp ea => meaning_jmp ea
  | .dbcc cond y => meaning_dbcc cond y
  | .scc cond ea => meaning_scc cond ea
  | .bsr d8 => meaning_bsr d8
  | .moveq x d8 => meaning_moveq x d8
  | .divu x ea => meaning_divu x ea
  | .divs x ea => meaning_divs x ea
  | .cmpm x sz y => meaning_cmpm x sz y
  | .mulu x ea => meaning_mulu x ea
  | .muls x ea => meaning_muls x ea
  | .exgDD x y => meaning_exgDD x y
  | .exgAA x y => meaning_exgAA x y
  | .exgDA x y => meaning_exgDA x y

end Sys2Proof.Machine
end

section
/-!
SUPPORT. What an instruction and a step can do: every next state of `exec` settles the invariant,
and a completed one is the whole change of a body; the parts of a step around the instruction.
-/

namespace Sys2Proof.Machine

variable {s t u : State} {i : Instr}

/-! ### Instructions -/

theorem settled_finish (e : StepEnd) (cost : Cost) (s : State) : Settled s (finish e cost s) :=
  have h := traced_finish e cost s
  ⟨⟨h.toSteady, id⟩, h.trace⟩

theorem addressError_settled (h : Traced s t) (e : addressError t = .next u) : Settled s u :=
  have ⟨k, hm, _⟩ := addressError_next e
  ⟨⟨(h.trans k).toSteady, fun _ => hm⟩, (h.trans k).trace⟩

/-- A body that ends completed made its whole change, and the rest of its ends settle the
invariant. -/
theorem perform_next {P : State → State → Prop} {body : Exec Done} (hb : Runs P body)
    (hP : ∀ {s t}, P s t → ModeKept s t) (h : perform body s = .next t) :
    Settled s t ∧ (t.lastEnd = .completed → ∃ cost u, P s u ∧ t = completes cost u) := by
  rcases next_of_perform h with ⟨cost, u, e, rfl⟩ | ⟨v, cost, u, e, k⟩ | ⟨u, e, k⟩
  · have hu := (hb s).1 _ u e
    exact ⟨(hP hu).settled.trans (settled_finish _ cost u), fun _ => ⟨cost, u, hu, rfl⟩⟩
  · obtain ⟨k, he⟩ := takeException_next k
    refine ⟨(hP ((hb s).1 _ u e)).settled.trans k, fun hc => ?_⟩
    rcases he with he | he <;> rw [he] at hc <;> cases hc
  · refine ⟨addressError_settled ((hb s).2 u e) k, fun hc => ?_⟩
    rw [(addressError_next k).2.2] at hc
    cases hc

theorem decodeTimeException_next {v : Byte} {cost : Cost}
    (h : decodeTimeException v cost s = .next t) : Settled s t ∧ t.lastEnd ≠ .completed := by
  obtain ⟨k, he⟩ := takeException_next h
  refine ⟨k, fun hc => ?_⟩
  rcases he with he | he <;> rw [he] at hc <;> cases hc

/-- The next states of an instruction: each settles the invariant; one that completed comes of the
whole change of its body, which in user state has no privileged write (R479). -/
theorem exec_next (h : exec i s = .next t) :
    Settled s t ∧ (t.lastEnd = .completed →
      ∃ cost u, t = completes cost u ∧ Final i s u ∧ (s.flagS = false → Within i s u)) := by
  cases meaning i with
  | plain he hb =>
    rw [he] at h
    obtain ⟨k, hc⟩ := perform_next hb Within.modeKept h
    refine ⟨k, fun hl => ?_⟩
    obtain ⟨cost, u, hu, rfl⟩ := hc hl
    exact ⟨cost, u, rfl, .plain hu, fun _ => hu⟩
  | privileged he hb =>
    rw [he] at h
    cases hS : s.flagS with
    | true =>
      rw [privileged_supervisor _ hS] at h
      obtain ⟨k, hc⟩ := perform_next hb Final.modeKept h
      refine ⟨k, fun hl => ?_⟩
      obtain ⟨cost, u, hu, rfl⟩ := hc hl
      exact ⟨cost, u, rfl, hu, nofun⟩
    | false =>
      rw [privileged_user _ hS] at h
      obtain ⟨k, hc⟩ := decodeTimeException_next h
      exact ⟨k, fun hl => absurd hl hc⟩
  | illegal he =>
    rw [he] at h
    obtain ⟨k, hc⟩ := decodeTimeException_next h
    exact ⟨k, fun hl => absurd hl hc⟩

theorem executeWord_settled {w : Word} (h : executeWord w s = .next t) : Settled s t := by
  unfold executeWord at h
  split at h
  · exact (exec_next h).1
  · exact (decodeTimeException_next h).1

/-! ### Around the instruction -/

/-- The opcode fetch (R571): only `trace_pending` is not settled by it. -/
theorem fetchOpcode_steady (s : State) :
    (∀ w t, fetchOpcode s = .ok w t → Sound s t) ∧
    ∀ t, fetchOpcode s = .error .addressError t → Steady s t := by
  have F := frame_modeKept
  have start : Sound s { s with instPc := s.pc, tracePending := s.cfg.emulateTrace && s.flagT } :=
    ⟨⟨rfl, rfl, rfl, rfl, rfl, rfl, le_rfl, le_rfl, le_rfl, id, id, id⟩, id⟩
  have rest : Runs ModeKept (do
      let w ← fetchWord
      update fun s => { s with ir := w }
      pure w) :=
    F.bind (F.calmly calmly_fetchWord) fun _ =>
      F.bind (runs_update fun s => .of_registers rfl id) fun _ => F.pure _
  exact ⟨fun w t e => start.trans ((rest _).1 w t e).settled.toSound,
    fun t e => start.toSteady.trans ((rest _).2 t e).toSteady⟩

theorem sound_countDown (s : State) : Sound s (countDown s) :=
  Settled.toSound (ModeKept.settled (.of_registers rfl id))

theorem traceStep_sound (h : traceStep s = .next t) : Sound s t := by
  unfold traceStep at h
  split at h
  · exact (takeException_next h).1.toSound
  · cases h
    exact ⟨.refl s, id⟩

theorem sound_updateIdle (c : Bool) (start : Nat) (s : State) : Sound s (updateIdle c start s) := by
  unfold updateIdle
  split
  · split
    · exact Settled.toSound (ModeKept.settled (.of_registers rfl id))
    · exact Settled.toSound (ModeKept.settled (.of_registers rfl id))
  · exact ⟨.refl s, id⟩

theorem sound_countBack (ran : Bool) (s : State) : Sound s (countBack ran s) := by
  unfold countBack
  split
  · exact ⟨.refl s, id⟩
  · exact Settled.toSound (ModeKept.settled (.of_registers rfl id))

/-- After the instruction no trace is pending (R571). -/
theorem afterInstruction_settled {d : Option Instr} {start : Nat}
    (h : afterInstruction d start s = .next t) : Sound s t ∧ t.tracePending = false := by
  unfold afterInstruction at h
  split at h
  · next u e =>
    cases h
    have k := ((traceStep_sound e).trans (sound_updateIdle (idleCandidate d s) start u)).trans
      (sound_countBack (executed s.lastEnd) _)
    exact ⟨k.trans ⟨⟨rfl, rfl, rfl, rfl, rfl, rfl, le_rfl, le_rfl, le_rfl, id, id, id⟩, id⟩, rfl⟩
  · cases h
  · cases h

theorem instructionStep_settled (h : instructionStep s = .next t) : Settled s t := by
  have start := sound_countDown s
  obtain ⟨fetched, stopped⟩ := fetchOpcode_steady (countDown s)
  unfold instructionStep at h
  split at h
  · next w u e =>
    split at h
    · next v ev =>
      obtain ⟨k, ht⟩ := afterInstruction_settled h
      exact ⟨((start.trans (fetched w u e)).trans (executeWord_settled ev).toSound).trans k,
        fun _ => ht⟩
    · cases h
    · cases h
  · next u e =>
    split at h
    · next v ev =>
      obtain ⟨k, ht⟩ := afterInstruction_settled h
      obtain ⟨ka, hm, -⟩ := addressError_next ev
      exact ⟨⟨((start.toSteady.trans (stopped u e)).trans ka.toSteady).trans k.toSteady,
        fun _ => k.mode hm⟩, fun _ => ht⟩
    · cases h
    · cases h
  · cases h

/-! ### Boundaries (R570) -/

theorem runs_acknowledge (l : Level) : Runs ModeKept (acknowledge l) := by
  have F := frame_modeKept
  refine F.bind (F.calmly (calmly_driveFc rfl)) fun _ => F.bind (F.look _) fun h =>
    F.bind (F.calmly (calmly_callHandler _ _ _)) fun answer => ?_
  split
  · exact F.pure _
  · exact runs_failWith _

theorem interruptStep_settled {l : Level} (h : interruptStep l s = .next t) : Settled s t := by
  have start : Settled s { s with
      nmiPending := if l = 7 then false else s.nmiPending
      idleDetected := if s.cfg.idleDetect then false else s.idleDetected } :=
    ModeKept.settled (.of_registers rfl id)
  unfold interruptStep at h
  dsimp only at h
  split at h
  · next v u e =>
    exact (start.trans ((runs_acknowledge l _).1 v u e).settled).trans (takeException_next h).1
  · next u e => exact start.trans (addressError_settled ((runs_acknowledge l _).2 u e) h)
  · cases h

theorem settled_idleStep (s : State) : Settled s (idleStep s) :=
  have start : Settled s { s with
      idleDetected := if s.cfg.idleDetect then false else s.idleDetected } :=
    ModeKept.settled (.of_registers rfl id)
  start.trans (settled_finish _ _ _)

theorem settled_applyDelayed (s : State) : Settled s (applyDelayed s) := by
  unfold applyDelayed
  split
  · split
    · exact ModeKept.settled (.of_registers rfl id)
    · exact (ModeKept.refl s).settled
  · exact (ModeKept.refl s).settled

/-- Every step settles the invariant. -/
theorem step_settled (h : step s = .next t) : Settled s t := by
  have start := (modeKept_takeSaved s).settled.trans (settled_applyDelayed s.takeSaved)
  unfold step oneStep atBoundary at h
  split at h
  · cases h
    exact start.trans (settled_idleStep _)
  · split at h
    · exact start.trans (interruptStep_settled h)
    · split at h
      · cases h
        exact start.trans (settled_idleStep _)
      · exact start.trans (instructionStep_settled h)

/-! ### The obligations -/

/-- Settles O52: every part of a step keeps the parts of the invariant (`step_settled`). -/
theorem stepKeepsInvariant : Obligations.StepKeepsInvariant := by
  unfold Obligations.StepKeepsInvariant
  exact fun _ _ hs h => (step_settled h).inv hs

/-- Settles O53: no part of a step changes the host's state or lowers a counter (`Steady`). -/
theorem stepKeepsTheHostsState : Obligations.StepKeepsTheHostsState := by
  unfold Obligations.StepKeepsTheHostsState
  intro s t h
  have k := (step_settled h).toSteady
  exact ⟨k.total, k.run, k.handlers, k.map, k.cfg, k.prefAddr, k.prefData, k.budget, k.draws⟩

/-- Settles O51, by evaluation of the state after reset. -/
theorem invariantAtReset : Obligations.InvariantAtReset := by
  unfold Obligations.InvariantAtReset
  exact ⟨State.reset_mem_wf, rfl, rfl, fun _ => rfl, nofun, rfl⟩

end Sys2Proof.Machine
end

section
/-!
SUPPORT. The frames of the instructions: what the whole change of a completed instruction says of
each part of the state.
-/

namespace Sys2Proof.Machine

variable {s t u : State} {i : Instr}

/-- The rows that write SR may set every condition code (R464-R475). -/
theorem tables_of_writesSr (h : writesSr i = true) :
    mayChangeX i = true ∧ keepsFlags i = false ∧ changesZOnly i = false := by
  unfold writesSr at h
  split at h
  case h_7 => cases h
  all_goals exact ⟨rfl, rfl, rfl⟩

/-- The fields that no instruction changes, but for one more claim `P`. -/
theorem SpecialKept.frame {P : Prop} (k : SpecialKept s t) (hP : P) :
    t.ir = s.ir ∧ t.prefAddr = s.prefAddr ∧ t.prefData = s.prefData ∧ t.instPc = s.instPc ∧
    t.aerrAddress = s.aerrAddress ∧ t.aerrWrite = s.aerrWrite ∧ t.aerrInstr = s.aerrInstr ∧
    t.aerrFc = s.aerrFc ∧ t.saved = s.saved ∧ t.runMode = s.runMode ∧
    t.doubleFault = s.doubleFault ∧ t.tracePending = s.tracePending ∧
    t.idlePc = s.idlePc ∧ t.idleCycle = s.idleCycle ∧ t.idleDetected = s.idleDetected ∧ P ∧
    (s.script = [] → t.intLevel = s.intLevel ∧ t.nmiPending = s.nmiPending ∧
      t.delayedIrq = s.delayedIrq ∧ t.haltPin = s.haltPin) := by
  refine ⟨?_, ?_, ?_, ?_, ?_, ?_, ?_, ?_, ?_, ?_, ?_, ?_, ?_, ?_, ?_, hP,
    fun h => (k.lines h).2⟩ <;> rw [k.eq]

theorem SpecialKept.stopped (k : SpecialKept s t) : t.stopped = s.stopped := by rw [k.eq]

/-- The whole change of a body keeps the registers but those the instruction may write; MOVE to USP
writes USP besides. -/
theorem Final.registers (h : Final i s t) :
    RegistersWithin i s t ∨
      ∃ y v u, i = .moveToUsp y ∧ RegistersWithin i s u ∧ t = { u with usp := v } := by
  cases h with
  | plain k => exact .inl k.registers
  | sr v hi k => exact .inl (k.registers.trans (.of_eq rfl rfl rfl rfl) k.status.flagS)
  | stop v hi k => exact .inl (k.registers.trans (.of_eq rfl rfl rfl rfl) k.status.flagS)
  | usp y v hi k => exact .inr ⟨y, v, _, hi, k.registers, rfl⟩

/-- The whole change of a body keeps what the instruction does not set of SR, or writes SR. -/
theorem Final.status (h : Final i s t) : StatusWithin i s t ∨ writesSr i = true := by
  cases h with
  | plain k => exact .inl k.status
  | sr v hi k => exact .inr hi
  | stop v hi k => exact .inr (by rw [hi]; rfl)
  | usp y v hi k => exact .inl (k.status.trans (.of_eq rfl))

/-! ### The obligations -/

/-- Settles O54: in user state a completed instruction stays within `Within`, which keeps the system
byte, SSP and `stopped`. -/
theorem userStateIsConfined : Obligations.UserStateIsConfined := by
  unfold Obligations.UserStateIsConfined
  intro s t i hS h hc
  obtain ⟨cost, u, rfl, -, hu⟩ := (exec_next h).2 hc
  have k := hu hS
  exact ⟨k.registers.ssp hS, k.status.system, k.special.stopped⟩

/-- Settles O55, by `Final.registers`; MOVE to USP completes in supervisor state only. -/
theorem registerFrame : Obligations.RegisterFrame := by
  unfold Obligations.RegisterFrame
  intro s t i h hc
  obtain ⟨cost, u, rfl, hF, hu⟩ := (exec_next h).2 hc
  rcases hF.registers with r | ⟨y, v, u, hi, r, rfl⟩
  · exact ⟨r.data, r.address, fun h7 _ => (r.stack h7).2, fun h7 _ => (r.stack h7).1,
      fun hS _ => r.usp hS, r.ssp⟩
  · have address (n : Reg) (h7 : n ≠ 7) : { u with usp := v }.readA n = u.readA n :=
      State.readA_congr h7 rfl
    exact ⟨r.data, fun n h7 hn => (address n h7).trans (r.address n h7 hn),
      fun h7 _ => (r.stack h7).2, fun h7 hS => ((hu hS).registers.stack h7).1,
      fun _ hy => absurd hi (hy y), r.ssp⟩

/-- Settles O56, by `Final.status`: the rows that write SR may set every condition code. -/
theorem statusFrame : Obligations.StatusFrame := by
  unfold Obligations.StatusFrame
  intro s t i h hc
  obtain ⟨cost, u, rfl, hF, -⟩ := (exec_next h).2 hc
  rcases hF.status with r | hi
  · exact ⟨fun _ => r.system, r.flagX, r.all, r.zOnly⟩
  · obtain ⟨hx, hk, hz⟩ := tables_of_writesSr hi
    simp [hi, hx, hk, hz]

/-- Settles O57: `SpecialKept` holds of what precedes the last write, and of the last writes STOP's
alone sets `stopped`. -/
theorem specialStateFrame : Obligations.SpecialStateFrame := by
  unfold Obligations.SpecialStateFrame
  intro s t i h hc
  obtain ⟨cost, u, rfl, hF, -⟩ := (exec_next h).2 hc
  cases hF with
  | plain k => exact k.special.frame fun _ => k.special.stopped
  | sr v hi k => exact k.special.frame fun _ => k.special.stopped
  | stop v hi k => exact k.special.frame fun hs => absurd hi hs
  | usp y v hi k => exact k.special.frame fun _ => k.special.stopped

end Sys2Proof.Machine
end

section
/-!
SUPPORT. Register writes (R40-R43, R49) and Scc (R425).
-/

namespace Sys2Proof.Machine

variable {s t u : State}

/-! ### Sized writes -/

theorem trunc_getLsbD (sz : Size) (v : Long) (k : Nat) :
    (trunc sz v).getLsbD k = if k < bitsOf sz then v.getLsbD k else false := by
  by_cases hk : k < 32
  · cases sz <;> simp [trunc, bitsOf, BitVec.getLsbD_setWidth, hk]
  · rw [BitVec.getLsbD_of_ge _ k (by omega), BitVec.getLsbD_of_ge v k (by omega), ite_self]

/-- A sized write replaces the bits below the size and keeps the others (R41). -/
theorem mergeLow_getLsbD (sz : Size) (old v : Long) {k : Nat} (hk : k < 32) :
    (mergeLow sz old v).getLsbD k = if k < bitsOf sz then v.getLsbD k else old.getLsbD k := by
  cases sz with
  | b =>
    have h : (mergeLow .b old v).getLsbD k =
        if k < 8 then (v.setWidth 8).getLsbD k else (old.extractLsb' 8 24).getLsbD (k - 8) :=
      BitVec.getLsbD_append
    rw [h]
    simp only [bitsOf, BitVec.getLsbD_setWidth, BitVec.getLsbD_extractLsb']
    grind
  | w =>
    have h : (mergeLow .w old v).getLsbD k =
        if k < 16 then (v.setWidth 16).getLsbD k else (old.extractLsb' 16 16).getLsbD (k - 16) :=
      BitVec.getLsbD_append
    rw [h]
    simp only [bitsOf, BitVec.getLsbD_setWidth, BitVec.getLsbD_extractLsb']
    grind
  | l => rw [bitsOf, if_pos hk, mergeLow]

theorem trunc_mergeLow (sz : Size) (old v : Long) : trunc sz (mergeLow sz old v) = trunc sz v :=
  BitVec.eq_of_getLsbD_eq fun k hk => by
    rw [trunc_getLsbD, trunc_getLsbD, mergeLow_getLsbD sz old v hk]
    by_cases h : k < bitsOf sz <;> simp [h]

theorem mergeLow_shiftRight (sz : Size) (old v : Long) :
    mergeLow sz old v >>> bitsOf sz = old >>> bitsOf sz :=
  BitVec.eq_of_getLsbD_eq fun k hk => by
    rw [BitVec.getLsbD_ushiftRight, BitVec.getLsbD_ushiftRight]
    by_cases h : bitsOf sz + k < 32
    · rw [mergeLow_getLsbD sz old v h, if_neg (by omega)]
    · rw [BitVec.getLsbD_of_ge _ _ (by omega), BitVec.getLsbD_of_ge _ _ (by omega)]

/-- Settles O8. -/
theorem registerWrites : Obligations.RegisterWrites := by
  unfold Obligations.RegisterWrites
  refine ⟨fun s sz n m v => ?_, fun s n m v => ?_, fun s v => ?_⟩
  · refine ⟨?_, ?_, fun h => ?_, rfl⟩
    · rw [State.mergeD, State.readD_writeD, if_pos rfl, trunc_mergeLow]
    · rw [State.mergeD, State.readD_writeD, if_pos rfl, mergeLow_shiftRight]
    · rw [State.mergeD, State.readD_writeD, if_neg h]
  · refine ⟨?_, fun h => ?_, ?_, State.writeA_sr s n v, fun h => ?_, fun h => ?_, fun h => ?_⟩
    · rw [State.readA_writeA, if_pos rfl]
    · rw [State.readA_writeA, if_neg h]
    · simp only [State.readD, State.writeA_d]
    · simp [State.writeA, lt_seven h]
    · simp [State.writeA_eq, h]
    · simp [State.writeA_eq, h]
  · refine ⟨rfl, ?_, rfl, rfl, rfl, rfl⟩
    have hS : (s.setSr v).flagS = v.getLsbD 13 := by
      simp [State.flagS, srMask]
    rw [← hS]
    rfl

end Sys2Proof.Machine
end

section
/-!
SUPPORT. Scc (R425), and what its parts share with the other instructions that write an operand
without reading it: the state after the operand is resolved, and the extra read of R125.
-/

namespace Sys2Proof.Machine

variable {s t u : State} {sz : Size} {ea : EA}

/-! ### The state after an operand is resolved -/

theorem afterEa_sr (s : State) (sz : Size) (ea : EA) : (afterEa s sz ea).sr = s.sr := by
  cases ea <;> simp [afterEa]

theorem afterEa_map (s : State) (sz : Size) (ea : EA) : (afterEa s sz ea).map = s.map := by
  cases ea <;> simp [afterEa]

theorem afterEa_handlers (s : State) (sz : Size) (ea : EA) :
    (afterEa s sz ea).handlers = s.handlers := by
  cases ea <;> simp [afterEa]

/-- Where memory is accessible is a matter of the map alone (R100). -/
theorem accessible_congr (h : t.map = s.map) (sz : Size) (a : Long) :
    accessible t sz a = accessible s sz a := by
  simp only [accessible, backed, State.region, h]

theorem SameButBus.putOperand (h : SameButBus t u) (s : State) (sz : Size) (ea : EA) (v : Long) :
    SameButBus (putOperand s sz ea v t) (putOperand s sz ea v u) := by
  cases ea with
  | dreg n => exact h.mergeD sz n v
  | areg n => exact h.writeA n v
  | _ => exact h.putMem sz _ v

/-- A writable operand is writable in the state after it is resolved, and in those that agree. -/
theorem storable_of_writable (hw : writable s sz ea = true) (hb : SameButBus t (afterEa s sz ea))
    (hm : inMemory ea = true) : storable t t.pc sz (eaAddr s sz ea) = true := by
  have hmap : t.map = s.map := (hb.congr State.map).trans (afterEa_map s sz ea)
  simp only [writable, storable, hm, Bool.not_true, Bool.false_or, Bool.and_eq_true] at hw ⊢
  rw [accessible_congr hmap, hb.congr State.pc]
  exact hw.2

/-- The extra read of DUMMY_READS (R125) changes nothing but FC and the calls. -/
theorem sameButBus_dummyRead {loc : Loc} (hq : quiet s = true)
    (h : ∀ a, loc = .mem a → accessible s sz a = true) :
    ∃ t, dummyRead sz loc s = .ok () t ∧ SameButBus t s := by
  unfold dummyRead
  rw [look_bind]
  cases s.cfg.dummyReads with
  | false => exact ⟨s, rfl, .refl s⟩
  | true =>
    cases loc with
    | mem a =>
      obtain ⟨t, e, b⟩ := sameButBus_memRead .instruction hq (h a rfl)
      exact ⟨t, (bind_ok _ e).trans rfl, b⟩
    | _ => exact ⟨s, rfl, .refl s⟩

theorem locOf_mem {a : Long} (h : locOf s sz ea = .mem a) :
    inMemory ea = true ∧ a = eaAddr s sz ea := by
  cases ea with
  | dreg n | areg n | imm | pcDisp | pcIndex => cases h
  | _ => cases h; exact ⟨rfl, rfl⟩

/-! ### Scc -/

/-- Scc with a writable byte completes with ones or zeros in it (R425). -/
theorem exec_scc_writable (cond : Cond) (hq : quiet s = true) (hw : writable s .b ea = true) :
    Reaches (exec (.scc cond ea) s) (completes (sccTime (condHolds s.flags cond) ea)
      (putOperand s .b ea (if condHolds s.flags cond then 0xFF else 0) (afterEa s .b ea))) := by
  have hw' := hw
  simp only [writable, Bool.and_eq_true] at hw'
  obtain ⟨⟨hr, hc⟩, -⟩ := hw'
  have quiet_of {t : State} (b : SameButBus t (afterEa s .b ea)) : quiet t = true := by
    rw [quiet, b.congr State.handlers, afterEa_handlers]
    exact hq
  obtain ⟨t, et, bt⟩ := sameButBus_resolveEa hq hr
  obtain ⟨u, eu, bu⟩ := sameButBus_dummyRead (sz := .b) (loc := locOf s .b ea) (quiet_of bt)
    fun a ha => by
      obtain ⟨hm, rfl⟩ := locOf_mem ha
      have := storable_of_writable hw bt hm
      simp only [storable, Bool.and_eq_true] at this
      exact this.1
  have b := bu.trans bt
  have hf : u.flags = s.flags := (b.congr State.flags).trans (by
    simp only [State.flags, State.flagX, State.flagN, State.flagZ, State.flagV, State.flagC,
      afterEa_sr])
  obtain ⟨x, ex, bx⟩ := sameButBus_writeLoc (quiet_of b) hc (storable_of_writable hw b)
    (if condHolds s.flags cond then 0xFF else 0)
  refine ⟨completes (sccTime (condHolds s.flags cond) ea) x, perform_completed ?_,
    (bx.trans (b.putOperand s .b ea _)).completes _⟩
  rw [bind_ok _ et, bind_ok _ eu, testCond, look_bind, hf, bind_ok _ ex, pure_apply]

/-- Settles O36: `exec_scc_writable`, and the table of R50 by evaluation on the flags. -/
theorem setByCondition : Obligations.SetByCondition := by
  unfold Obligations.SetByCondition
  refine ⟨fun s cond ea hq _ hw => exec_scc_writable cond hq hw, fun f => ?_⟩
  obtain ⟨x, n, z, v, c⟩ := f
  simp [condHolds]

end Sys2Proof.Machine
end

section
/-!
SUPPORT. The flag rules of additions and subtractions (R52, R53): the parts of a value of a size as
numbers, the one argument about carries and overflow for every size, and the flags of a logical
result (R55).
-/

namespace Sys2Proof.Machine

/-! ### A value of a size as numbers -/

/-- The number of values of the nonnegative half of a size, `2^(N(sz) - 1)`. -/
def half (sz : Size) : Nat := 2 ^ (bitsOf sz - 1)

theorem two_pow_bitsOf (sz : Size) : 2 ^ bitsOf sz = 2 * half sz := by
  cases sz <;> rfl

theorem half_pos (sz : Size) : 0 < half sz := Nat.two_pow_pos _

theorem trunc_toNat (sz : Size) (v : Long) : (trunc sz v).toNat = v.toNat % (2 * half sz) := by
  have := v.isLt
  cases sz <;> simp [trunc, half, bitsOf] <;> omega

theorem trunc_lt (sz : Size) (v : Long) : (trunc sz v).toNat < 2 * half sz := by
  rw [trunc_toNat]
  exact Nat.mod_lt _ (by have := half_pos sz; omega)

theorem trunc_trunc (sz : Size) (v : Long) : trunc sz (trunc sz v) = trunc sz v :=
  BitVec.eq_of_toNat_eq (by rw [trunc_toNat, Nat.mod_eq_of_lt (trunc_lt sz v)])

/-- The sign bit of a value of `w` bits, in a long. -/
theorem getLsbD_eq_half_le (v : Long) {w : Nat} (hw : 0 < w) :
    v.getLsbD (w - 1) = decide (2 ^ (w - 1) ≤ v.toNat % 2 ^ w) := by
  have h : (v.setWidth w).msb = v.getLsbD (w - 1) := by
    rw [BitVec.msb_eq_getLsbD_last, BitVec.getLsbD_setWidth]
    simp [hw]
  rw [← h, BitVec.msb_eq_decide, BitVec.toNat_setWidth]

theorem msbOf_eq (sz : Size) (v : Long) : msbOf sz v = decide (half sz ≤ (trunc sz v).toNat) := by
  rw [trunc_toNat, ← two_pow_bitsOf, half]
  cases sz with
  | b => exact getLsbD_eq_half_le v (w := 8) (by decide)
  | w => exact getLsbD_eq_half_le v (w := 16) (by decide)
  | l => exact getLsbD_eq_half_le v (w := 32) (by decide)

/-- The signed value of `w` bits of a long. -/
theorem signExtend_toInt (v : Long) {w : Nat} (hw : w ≤ 32) :
    ((v.setWidth w).signExtend 32).toInt =
      (v.toNat % 2 ^ w : Nat) - if 2 ^ (w - 1) ≤ v.toNat % 2 ^ w then (2 ^ w : Int) else 0 := by
  rw [BitVec.toInt_signExtend_of_le hw, BitVec.toInt_eq_msb_cond, BitVec.msb_eq_decide,
    BitVec.toNat_setWidth]
  simp only [decide_eq_true_eq]
  split <;> simp

theorem signedOf_eq (sz : Size) (v : Long) :
    signedOf sz v = (trunc sz v).toNat - if msbOf sz v then (2 * half sz : Int) else 0 := by
  have h2 : (2 * half sz : Int) = ((2 ^ bitsOf sz : Nat) : Int) := by
    rw [two_pow_bitsOf]
    rfl
  simp only [msbOf_eq, decide_eq_true_eq]
  rw [h2, trunc_toNat, ← two_pow_bitsOf, half]
  cases sz with
  | b => exact signExtend_toInt v (w := 8) (by decide)
  | w => exact signExtend_toInt v (w := 16) (by decide)
  | l =>
    have := signExtend_toInt v (w := 32) (by decide)
    rwa [BitVec.signExtend_eq, BitVec.setWidth_eq] at this

/-! ### Carries and overflow -/

theorem addValue_toNat (sz : Size) (d s : Long) (x : Bool) :
    (addValue sz d s x).toNat =
      ((trunc sz d).toNat + (trunc sz s).toNat + x.toNat) % (2 * half sz) := by
  have hx : ((BitVec.ofBool x).setWidth 32 : Long).toNat = x.toNat := by cases x <;> rfl
  rw [addValue, trunc_toNat, trunc_toNat, trunc_toNat, BitVec.toNat_add, BitVec.toNat_add, hx]
  cases sz <;> simp only [half, bitsOf] <;> omega

theorem subValue_toNat (sz : Size) (d s : Long) (x : Bool) :
    ((subValue sz d s x).toNat : Int) =
      ((trunc sz d).toNat - (trunc sz s).toNat - x.toNat) % (2 * half sz) := by
  have hx : ((BitVec.ofBool x).setWidth 32 : Long).toNat = x.toNat := by cases x <;> rfl
  have hx1 : x.toNat ≤ 1 := by cases x <;> decide
  rw [subValue, trunc_toNat, trunc_toNat, trunc_toNat, BitVec.toNat_sub, BitVec.toNat_sub, hx]
  cases sz <;> simp only [half, bitsOf] <;> omega

/-- `D` as a signed value, where `H` is half the range. -/
def signedIn (H D : Nat) : Int := D - if H ≤ D then (2 * H : Int) else 0

theorem signedIn_cases (H D : Nat) :
    H ≤ D ∧ signedIn H D = D - 2 * H ∨ D < H ∧ signedIn H D = D := by
  unfold signedIn
  split <;> omega

theorem signedOf_eq_signedIn (sz : Size) (v : Long) :
    signedOf sz v = signedIn (half sz) (trunc sz v).toNat := by
  simp only [signedOf_eq, msbOf_eq, signedIn, decide_eq_true_eq]

theorem outOfRange_eq (sz : Size) (i : Int) :
    outOfRange sz i = decide (i < -(half sz : Int) ∨ (half sz : Int) ≤ i) := by
  have h : (2 ^ (bitsOf sz - 1) : Int) = half sz := by simp [half]
  rw [outOfRange, h, Bool.decide_or]

/-- A sum wraps once or not at all. -/
theorem sum_wraps {H a : Nat} (h : a < 4 * H) :
    a % (2 * H) = a ∧ a < 2 * H ∨ a % (2 * H) = a - 2 * H ∧ 2 * H ≤ a := by
  rcases Nat.lt_or_ge a (2 * H) with hl | hg
  · exact .inl ⟨Nat.mod_eq_of_lt hl, hl⟩
  · exact .inr ⟨by rw [Nat.mod_eq_sub_mod hg, Nat.mod_eq_of_lt (by omega)], hg⟩

/-- A difference wraps once or not at all. -/
theorem difference_wraps {H : Nat} {a : Int} (hl : -(2 * H : Int) ≤ a) (hu : a < 2 * H) :
    a % (2 * H) = a ∧ 0 ≤ a ∨ a % (2 * H) = a + 2 * H ∧ a < 0 := by
  rcases Int.lt_or_le a 0 with hn | hp
  · exact .inr ⟨by rw [← Int.add_emod_right, Int.emod_eq_of_lt (by omega) (by omega)], hn⟩
  · exact .inl ⟨Int.emod_eq_of_lt hp hu, hp⟩

/-- A signed sum is out of range just when it is not the value of the wrapped sum, and just when the
operands have one sign and the wrapped sum the other. -/
theorem sum_outOfRange {H D S R x : Nat} {i : Int} (hD : D < 2 * H) (hS : S < 2 * H) (hx : x ≤ 1)
    (hR : R = (D + S + x) % (2 * H)) (hi : i = signedIn H D + signedIn H S + x) :
    (i < -(H : Int) ∨ (H : Int) ≤ i ↔ i ≠ signedIn H R) ∧
    (i < -(H : Int) ∨ (H : Int) ≤ i ↔
      (H ≤ S ∧ H ≤ D) ∧ ¬H ≤ R ∨ (¬H ≤ S ∧ ¬H ≤ D) ∧ H ≤ R) := by
  have wrap := sum_wraps (H := H) (a := D + S + x) (by omega)
  rw [← hR] at wrap
  clear hR
  rcases signedIn_cases H D with hd | hd <;> rcases signedIn_cases H S with hs | hs <;>
    rcases signedIn_cases H R with hr | hr <;> rcases wrap with hw | hw <;> constructor <;> omega

/-- The same of a signed difference: the operands have different signs, and the wrapped difference
has that of the second. -/
theorem difference_outOfRange {H D S R x : Nat} {i : Int} (hD : D < 2 * H) (hS : S < 2 * H)
    (hx : x ≤ 1) (hR : (R : Int) = (D - S - x) % (2 * H))
    (hi : i = signedIn H D - signedIn H S - x) :
    (i < -(H : Int) ∨ (H : Int) ≤ i ↔ i ≠ signedIn H R) ∧
    (i < -(H : Int) ∨ (H : Int) ≤ i ↔
      (¬H ≤ S ∧ H ≤ D) ∧ ¬H ≤ R ∨ (H ≤ S ∧ ¬H ≤ D) ∧ H ≤ R) := by
  have wrap := difference_wraps (H := H) (a := D - S - x) (by omega) (by omega)
  rw [← hR] at wrap
  clear hR
  rcases signedIn_cases H D with hd | hd <;> rcases signedIn_cases H S with hs | hs <;>
    rcases signedIn_cases H R with hr | hr <;> rcases wrap with hw | hw <;> constructor <;> omega

theorem toNat_le_one (x : Bool) : x.toNat ≤ 1 := by cases x <;> decide

theorem toInt_eq_toNat (x : Bool) : x.toInt = x.toNat := by cases x <;> rfl

/-- V of an addition, by both forms of its rule (R52). -/
theorem addFlags_v (sz : Size) (d s : Long) (x : Bool) :
    (addFlags sz d s x).v =
      decide (signedOf sz d + signedOf sz s + x.toInt ≠ signedOf sz (addValue sz d s x)) ∧
    (addFlags sz d s x).v =
      ((msbOf sz s && msbOf sz d && !msbOf sz (addValue sz d s x)) ||
        (!msbOf sz s && !msbOf sz d && msbOf sz (addValue sz d s x))) := by
  have hr : trunc sz (addValue sz d s x) = addValue sz d s x := trunc_trunc sz _
  have hv := sum_outOfRange (trunc_lt sz d) (trunc_lt sz s) (toNat_le_one x)
    (addValue_toNat sz d s x) rfl
  simp only [addFlags, outOfRange_eq, signedOf_eq_signedIn, msbOf_eq, toInt_eq_toNat, hr]
  refine ⟨decide_eq_decide.2 hv.1, Bool.eq_iff_iff.2 ?_⟩
  simp only [decide_eq_true_eq, Bool.or_eq_true, Bool.and_eq_true, Bool.not_eq_true',
    decide_eq_false_iff_not]
  exact hv.2

/-- V of a subtraction, by both forms of its rule (R53). -/
theorem subFlags_v (sz : Size) (d s : Long) (x : Bool) :
    (subFlags sz d s x).v =
      decide (signedOf sz d - signedOf sz s - x.toInt ≠ signedOf sz (subValue sz d s x)) ∧
    (subFlags sz d s x).v =
      ((!msbOf sz s && msbOf sz d && !msbOf sz (subValue sz d s x)) ||
        (msbOf sz s && !msbOf sz d && msbOf sz (subValue sz d s x))) := by
  have hr : trunc sz (subValue sz d s x) = subValue sz d s x := trunc_trunc sz _
  have hv := difference_outOfRange (trunc_lt sz d) (trunc_lt sz s) (toNat_le_one x)
    (subValue_toNat sz d s x) rfl
  simp only [subFlags, outOfRange_eq, signedOf_eq_signedIn, msbOf_eq, toInt_eq_toNat, hr]
  refine ⟨decide_eq_decide.2 hv.1, Bool.eq_iff_iff.2 ?_⟩
  simp only [decide_eq_true_eq, Bool.or_eq_true, Bool.and_eq_true, Bool.not_eq_true',
    decide_eq_false_iff_not]
  exact hv.2

/-- N and Z of a logical result (R55). -/
theorem logicFlags_nz (sz : Size) (r : Long) (x : Bool) :
    (logicFlags x sz r).n = r.getLsbD (bitsOf sz - 1) ∧
    ((logicFlags x sz r).z = true ↔ r.toNat % 2 ^ bitsOf sz = 0) := by
  refine ⟨by cases sz <;> rfl, ?_⟩
  rw [logicFlags, beq_iff_eq, two_pow_bitsOf, ← trunc_toNat]
  exact ⟨fun h => by rw [h]; rfl, fun h => BitVec.eq_of_toNat_eq h⟩

/-- Settles O4: the values modulo the size, the carries as they are defined, and V by `addFlags_v`
and `subFlags_v`. -/
theorem additionAndSubtractionFlags : Obligations.AdditionAndSubtractionFlags := by
  unfold Obligations.AdditionAndSubtractionFlags
  refine ⟨fun sz d s x => ⟨?_, ?_⟩, fun sz r x => ?_⟩
  · obtain ⟨hv, hb⟩ := addFlags_v sz d s x
    refine ⟨?_, rfl, hv, hb, rfl, rfl, rfl⟩
    rw [two_pow_bitsOf, addValue_toNat]
  · obtain ⟨hv, hb⟩ := subFlags_v sz d s x
    have h2 : (2 ^ bitsOf sz : Int) = 2 * half sz := by
      exact_mod_cast two_pow_bitsOf sz
    refine ⟨?_, rfl, hv, hb, rfl, rfl, rfl⟩
    rw [h2, subValue_toNat, toInt_eq_toNat]
  · obtain ⟨hn, hz⟩ := logicFlags_nz sz r x
    exact ⟨hn, hz, rfl, rfl, rfl⟩

end Sys2Proof.Machine
end

section
/-!
SUPPORT. Accesses whatever the callbacks do: `OnBus x` says that `x` changes nothing but what the
host's answers and stores change, and raises no address error; an aligned access is such a body, run
with its function code in FC (R110, R111, R114, R116, R120).
-/

namespace Sys2Proof.Machine

variable {α β : Type} {s t u : State} {sz : Size} {a : Long}

/-! ### Bodies that keep to the bus -/

/-- No field differs but those of the host's answers and moves (R583) and the bytes of memory. -/
def BusKept (s t : State) : Prop := t = { s with
  calls := t.calls, script := t.script, draws := t.draws, intLevel := t.intLevel
  nmiPending := t.nmiPending, delayedIrq := t.delayedIrq, haltPin := t.haltPin, mem := t.mem }

theorem BusKept.refl (s : State) : BusKept s s := rfl

theorem BusKept.trans (h : BusKept s t) (k : BusKept t u) : BusKept s u := by
  unfold BusKept at h k ⊢
  rw [h] at k
  exact k

theorem Moved.busKept (h : Moved s t) : BusKept s t := by
  have h1 := h.eq
  unfold BusKept
  rw [h1]

/-- A body that keeps to the bus; if it stops, it stops at a fault. -/
def OnBus (x : Exec α) : Prop :=
  ∀ s, (∀ a t, x s = .ok a t → BusKept s t) ∧ ∀ e t, x s = .error e t → ∃ f, e = .fault f

theorem onBus_pure (a : α) : OnBus (pure a : Exec α) :=
  fun s => ⟨fun _ _ e => by cases e; exact .refl s, fun _ _ e => by cases e⟩

theorem onBus_look (f : State → α) : OnBus (look f) :=
  fun s => ⟨fun _ _ e => by cases e; exact .refl s, fun _ _ e => by cases e⟩

theorem onBus_failWith (f : Fault) : OnBus (failWith f : Exec α) :=
  fun _ => ⟨fun _ _ e => (nomatch e), fun _ _ e => by cases e; exact ⟨f, rfl⟩⟩

theorem onBus_update {f : State → State} (h : ∀ s, BusKept s (f s)) : OnBus (update f) :=
  fun s => ⟨fun _ _ e => by cases e; exact h s, fun _ _ e => by cases e⟩

theorem onBus_bind {x : Exec α} {f : α → Exec β} (hx : OnBus x) (hf : ∀ a, OnBus (f a)) :
    OnBus (x >>= f) := by
  refine fun s => ⟨fun b u e => ?_, fun st u e => ?_⟩
  · obtain ⟨a, t, e1, e2⟩ := ok_of_bind e
    exact ((hx s).1 a t e1).trans ((hf a t).1 b u e2)
  · rcases error_of_bind e with e1 | ⟨a, t, -, e2⟩
    · exact (hx s).2 st u e1
    · exact (hf a t).2 st u e2

theorem onBus_applyMoves (ms : List HostMove) : OnBus (applyMoves ms) :=
  fun _ => ⟨fun _ _ e => (applyMoves_moved e).busKept, fun _ _ e => applyMoves_error e⟩

theorem onBus_hostAnswer : OnBus hostAnswer := by
  refine onBus_bind (onBus_look _) fun script => ?_
  cases script with
  | nil => exact fun s => ⟨fun _ _ e => by cases e; rfl, fun _ _ e => by cases e⟩
  | cons ans rest =>
    exact onBus_bind (onBus_update fun _ => rfl) fun _ =>
      onBus_bind (onBus_applyMoves _) fun _ => onBus_pure _

theorem onBus_callHook (c : Call) : OnBus (callHook c) :=
  onBus_bind (onBus_update fun _ => rfl) fun _ => onBus_hostAnswer

theorem onBus_callHandler (h : Handler) (c : Call) (d : Long) : OnBus (callHandler h c d) := by
  refine onBus_bind (onBus_update fun _ => rfl) fun _ => ?_
  cases h with
  | default => exact onBus_pure d
  | host => exact onBus_hostAnswer

theorem onBus_busRead8 (b : Addr) : OnBus (busRead8 b) := by
  refine onBus_bind (onBus_look id) fun s => ?_
  split
  · exact onBus_pure _
  · exact onBus_bind (onBus_callHook _) fun _ => onBus_pure _
  · exact onBus_failWith _

theorem onBus_busRead16 (b : Addr) : OnBus (busRead16 b) := by
  refine onBus_bind (onBus_look id) fun s => ?_
  split
  · exact onBus_pure _
  · exact onBus_bind (onBus_callHook _) fun _ => onBus_pure _
  · exact onBus_failWith _

theorem busKept_pokeBytes (b : Addr) (vs : List Byte) (s : State) :
    BusKept s (pokeBytes b vs s) := (pokeBytes_moved b vs s).busKept

theorem onBus_busWrite8 (b : Addr) (v : Byte) : OnBus (busWrite8 b v) := by
  refine onBus_bind (onBus_look id) fun s => ?_
  split
  · exact onBus_update (busKept_pokeBytes b [v])
  · exact onBus_bind (onBus_callHook _) fun _ => onBus_pure _
  · exact onBus_failWith _

theorem onBus_busWrite16 (b : Addr) (v : Word) : OnBus (busWrite16 b v) := by
  refine onBus_bind (onBus_look id) fun s => ?_
  split
  · exact onBus_update (busKept_pokeBytes b _)
  · exact onBus_bind (onBus_callHook _) fun _ => onBus_pure _
  · exact onBus_failWith _

theorem onBus_busRead (sz : Size) (a : Long) : OnBus (busRead sz a) := by
  cases sz with
  | b => exact onBus_bind (onBus_busRead8 _) fun _ => onBus_pure _
  | w => exact onBus_bind (onBus_busRead16 _) fun _ => onBus_pure _
  | l =>
    exact onBus_bind (onBus_busRead16 _) fun _ => onBus_bind (onBus_busRead16 _) fun _ =>
      onBus_pure _

theorem onBus_busWrite (sz : Size) (a v : Long) : OnBus (busWrite sz a v) := by
  cases sz with
  | b => exact onBus_busWrite8 _ _
  | w => exact onBus_busWrite16 _ _
  | l => exact onBus_bind (onBus_busWrite16 _ _) fun _ => onBus_busWrite16 _ _

theorem onBus_hazardCheck (base a : Long) (n : Nat) : OnBus (hazardCheck base a n) := by
  unfold hazardCheck
  split
  · exact onBus_failWith _
  · exact onBus_pure _

theorem onBus_fastWord (a : Long) : OnBus (fastWord a) := by
  refine onBus_bind (onBus_look id) fun s => ?_
  dsimp only
  split
  · exact onBus_pure _
  · exact onBus_failWith _

theorem onBus_fastByte (a : Long) : OnBus (fastByte a) := by
  refine onBus_bind (onBus_look id) fun s => ?_
  dsimp only
  split
  · exact onBus_pure _
  · exact onBus_failWith _

/-! ### Function codes (R120) -/

/-- FC after an access with a function code: the code when it is emulated. -/
def withFc (fc : BitVec 3) (s : State) : State :=
  { s with fc := if s.cfg.fcEmulation then fc else s.fc }

/-- Driving FC puts the code in it; the rest of it, a call of fc_change, keeps to the bus. -/
theorem driveFc_onBus (fc : BitVec 3) (s : State) :
    ∃ x : Exec Unit, OnBus x ∧ driveFc fc s = x (withFc fc s) := by
  unfold driveFc withFc
  rw [look_bind]
  by_cases hc : (s.cfg.fcEmulation && s.fc != fc) = true
  · refine ⟨_, onBus_bind (onBus_callHandler s.handlers.fcChange (.fcChange fc) 0) fun _ =>
      onBus_pure (), ?_⟩
    rw [id, if_pos hc, update_bind, if_pos (Bool.and_eq_true_iff.1 hc).1]
  · refine ⟨_, onBus_pure (), ?_⟩
    have h : (if s.cfg.fcEmulation = true then fc else s.fc) = s.fc := by
      split
      · next he =>
        rw [he, Bool.true_and, bne_iff_ne, not_not] at hc
        exact hc.symm
      · rfl
    rw [id, if_neg hc, h]

/-- FC is driven once: a second access with the same code calls nothing (R120, log 22). -/
theorem driveFc_again {fc : BitVec 3} (h : s.cfg.fcEmulation = true → s.fc = fc) :
    driveFc fc s = .ok () s := by
  unfold driveFc
  rw [look_bind, id, if_neg]
  · rfl
  · intro hc
    obtain ⟨he, hne⟩ := Bool.and_eq_true_iff.1 hc
    simp [h he] at hne

/-- With the default fc_change, whatever the other callbacks are. -/
theorem driveFc_default (h : s.handlers.fcChange = .default) (fc : BitVec 3) :
    driveFc fc s = .ok () (driven fc s) := by
  unfold driveFc driven
  rw [look_bind, id]
  split
  · rw [update_bind]
    simp [callHandler, recordCall, h]
  · rfl

/-! ### Accesses as bus bodies -/

/-- A body that drives FC and then keeps to the bus. -/
theorem driveFc_bind_onBus {x : Exec α} (hx : OnBus x) (fc : BitVec 3) (s : State) :
    ∃ y : Exec α, OnBus y ∧ (driveFc fc >>= fun _ => x) s = y (withFc fc s) := by
  obtain ⟨d, hd, e⟩ := driveFc_onBus fc s
  exact ⟨d >>= fun _ => x, onBus_bind hd fun _ => hx, by rw [bind_apply, bind_apply, e]⟩

theorem memRead_aligned (ph : Phase) (h : misaligned sz a = false) :
    memRead ph sz a s = (driveFc s.dataFc >>= fun _ => busRead sz a) s := by
  rw [memRead, look_bind, if_neg (by simp [h])]

theorem memRead_onBus (ph : Phase) (h : misaligned sz a = false) :
    ∃ x, OnBus x ∧ memRead ph sz a s = x (withFc s.dataFc s) := by
  rw [memRead_aligned ph h]
  exact driveFc_bind_onBus (onBus_busRead sz a) _ s

/-- The part of a store after FC is driven (R111, R130). -/
def storePart (ph : Phase) (sz : Size) (a v : Long) : Exec Unit := do
  busWrite sz a v
  match ph with
  | .instruction => do
    let next ← look State.pc
    hazardCheck next a (bytesOf sz)
  | .exception => pure ()

theorem onBus_storePart (ph : Phase) (sz : Size) (a v : Long) : OnBus (storePart ph sz a v) := by
  refine onBus_bind (onBus_busWrite sz a v) fun _ => ?_
  cases ph with
  | instruction => exact onBus_bind (onBus_look _) fun _ => onBus_hazardCheck _ _ _
  | exception => exact onBus_pure ()

theorem memWrite_aligned (ph : Phase) (h : misaligned sz a = false) (v : Long) :
    memWrite ph sz a v s = (driveFc s.dataFc >>= fun _ => storePart ph sz a v) s := by
  unfold memWrite
  rw [look_bind, if_neg (by simp [h])]
  rfl

theorem memWrite_onBus (ph : Phase) (h : misaligned sz a = false) (v : Long) :
    ∃ x, OnBus x ∧ memWrite ph sz a v s = x (withFc s.dataFc s) := by
  rw [memWrite_aligned ph h]
  exact driveFc_bind_onBus (onBus_storePart ph sz a v) _ s

/-- The words of a PC-relative read (R116), after FC is driven. -/
def programPart (sz : Size) (a : Long) : Exec Long :=
  match sz with
  | .b => do
    let v ← fastByte a
    pure (v.setWidth 32)
  | .w => do
    let v ← fastWord a
    pure (v.setWidth 32)
  | .l => do
    let hi ← fastWord a
    let lo ← fastWord (a + 2)
    pure (hi ++ lo)

theorem onBus_programPart (sz : Size) (a : Long) : OnBus (programPart sz a) := by
  cases sz with
  | b => exact onBus_bind (onBus_fastByte a) fun _ => onBus_pure _
  | w => exact onBus_bind (onBus_fastWord a) fun _ => onBus_pure _
  | l => exact onBus_bind (onBus_fastWord a) fun _ => onBus_bind (onBus_fastWord _) fun _ =>
      onBus_pure _

theorem memReadPc_aligned (h : misaligned sz a = false) :
    memReadPc sz a s = (driveFc s.programFc >>= fun _ => programPart sz a) s := by
  unfold memReadPc
  rw [if_neg (by simp [h]), look_bind]
  rfl

theorem memReadPc_misaligned (h : misaligned sz a = true) :
    memReadPc sz a s = .error (.fault (.pcRelMisaligned a)) s := by
  unfold memReadPc
  rw [if_pos h]
  rfl

theorem memReadPc_onBus (h : misaligned sz a = false) :
    ∃ x, OnBus x ∧ memReadPc sz a s = x (withFc s.programFc s) := by
  rw [memReadPc_aligned h]
  exact driveFc_bind_onBus (onBus_programPart sz a) _ s

theorem fetchWord_even (h : s.pc.getLsbD 0 = false) :
    fetchWord s = ((driveFc s.programFc >>= fun _ => fastWord s.pc) >>= fun w =>
      update (fun u => u.setPc (s.pc + 2)) >>= fun _ => pure w) s := by
  rw [fetchWord, look_bind, look_bind, if_neg (by rw [h]; exact Bool.false_ne_true), bind_assoc]

/-- A fetch at an odd pc (R114, log 24). -/
theorem fetchWord_odd (h : s.pc.getLsbD 0 = true) :
    fetchWord s = .error .addressError { s with
      aerrAddress := s.pc, aerrWrite := false, aerrInstr := true, aerrFc := s.programFc } := by
  rw [fetchWord, look_bind, look_bind, if_pos h]
  rfl

end Sys2Proof.Machine
end

section
/-!
SUPPORT. Address errors (R110-R114): of data accesses, of operands and of fetches.
-/

namespace Sys2Proof.Machine

variable {s t u : State} {sz : Size} {ea : EA} {a : Long}

theorem misaligned_iff : misaligned sz a = true ↔ sz ≠ .b ∧ a.getLsbD 0 = true := by
  rw [misaligned, Bool.and_eq_true, bne_iff_ne]

/-- What keeps to the bus raises no address error. -/
theorem OnBus.ne_addressError {α : Type} {x : Exec α} (h : OnBus x) :
    x s ≠ .error .addressError t := by
  intro e
  obtain ⟨f, hf⟩ := (h s).2 _ t e
  cases hf

theorem misaligned_of_memRead {ph : Phase} (e : memRead ph sz a s = .error .addressError t) :
    misaligned sz a = true := by
  by_contra h
  obtain ⟨x, hx, ex⟩ := memRead_onBus (s := s) ph (Bool.not_eq_true _ ▸ h)
  exact hx.ne_addressError (ex ▸ e)

theorem misaligned_of_memWrite {ph : Phase} {v : Long}
    (e : memWrite ph sz a v s = .error .addressError t) : misaligned sz a = true := by
  by_contra h
  obtain ⟨x, hx, ex⟩ := memWrite_onBus (s := s) ph (Bool.not_eq_true _ ▸ h) v
  exact hx.ne_addressError (ex ▸ e)

theorem locOf_of_inMemory (hm : inMemory ea = true) (hd : ea ≠ .pcDisp) (hx : ea ≠ .pcIndex) :
    locOf s sz ea = .mem (eaAddr s sz ea) := by
  cases ea with
  | dreg n | areg n | imm => cases hm
  | pcDisp => exact absurd rfl hd
  | pcIndex => exact absurd rfl hx
  | _ => rfl

theorem dataFc_congr (h : t.sr = s.sr) : t.dataFc = s.dataFc := by
  rw [State.dataFc, State.dataFc, State.flagS, State.flagS, h]

/-- Reading an operand at an odd address: the error comes after the side effects of resolving it
(R113). -/
theorem source_misaligned (hq : quiet s = true) (hr : resolvable s sz ea = true)
    (hl : locOf s sz ea = .mem a) (ho : misaligned sz a = true) :
    ∃ t, source sz ea s = .error .addressError t ∧ SameButBus t { afterEa s sz ea with
      aerrAddress := a, aerrWrite := false, aerrInstr := true, aerrFc := s.dataFc } := by
  obtain ⟨t, et, bt⟩ := sameButBus_resolveEa hq hr
  have hfc : t.dataFc = s.dataFc :=
    dataFc_congr ((bt.congr State.sr).trans (afterEa_sr s sz ea))
  refine ⟨_, by rw [source, bind_ok _ et, hl]; exact memRead_misaligned .instruction ho, ?_⟩
  rw [hfc]
  exact bt.map fun u => { u with
    aerrAddress := a, aerrWrite := false, aerrInstr := true, aerrFc := s.dataFc }

/-- Settles O11, by `memRead_misaligned` and `memWrite_misaligned`; the converse by `OnBus`: an
aligned access stops at faults alone. -/
theorem oddAddressesAreAddressErrors : Obligations.OddAddressesAreAddressErrors := by
  unfold Obligations.OddAddressesAreAddressErrors
  refine ⟨fun s ph sz a v => ⟨fun hsz ho => ?_, fun t e => ?_, fun t e => ?_⟩,
    fun s sz ea hq hr hm hd hx ho => ?_, fun s ho => ⟨fetchWord_odd ho, ?_⟩⟩
  · have h := misaligned_iff.2 ⟨hsz, ho⟩
    exact ⟨memRead_misaligned ph h, memWrite_misaligned ph h v⟩
  · exact misaligned_iff.1 (misaligned_of_memRead e)
  · exact misaligned_iff.1 (misaligned_of_memWrite e)
  · exact source_misaligned hq hr (locOf_of_inMemory hm hd hx) ho
  · rw [fetchOpcode, update_bind]
    exact bind_error _ (fetchWord_odd ho)

end Sys2Proof.Machine
end

section
/-!
SUPPORT. Stores and loads (R102-R106, R110, R111): what the bytes of a store read as, accesses
through hooks, and a long as two words.
-/

namespace Sys2Proof.Machine

variable {α β : Type} {s t u : State} {sz : Size} {a v : Long}

/-! ### The bytes of a store (R102, R106) -/

/-- Bytes written one after the other. -/
def writeAll (m : Memory) (l : List (Addr × Byte)) : Memory :=
  l.foldl (fun m p => m.write p.1.toNat p.2) m

theorem read_writeAll_other (m : Memory) {l : List (Addr × Byte)} {b : Addr}
    (h : ∀ p ∈ l, p.1 ≠ b) : (writeAll m l).read b.toNat = m.read b.toNat := by
  induction l generalizing m with
  | nil => rfl
  | cons p l ih =>
    obtain ⟨hp, hl⟩ := List.forall_mem_cons.1 h
    exact (ih _ hl).trans (Memory.read_write_other m p.2 fun e => hp (BitVec.eq_of_toNat_eq e))

/-- A byte written to a place that no later byte is written to. -/
theorem read_writeAll {m : Memory} (hm : m.wf = true) {l : List (Addr × Byte)}
    (hl : (l.map Prod.fst).Nodup) {p : Addr × Byte} (hp : p ∈ l) :
    (writeAll m l).read p.1.toNat = p.2 := by
  induction l generalizing m with
  | nil => cases hp
  | cons q l ih =>
    obtain ⟨hq, hl⟩ := List.nodup_cons.1 hl
    rcases List.mem_cons.1 hp with rfl | hp
    · have hn : ∀ r ∈ l, r.1 ≠ p.1 := fun r hr e => hq (List.mem_map.2 ⟨r, hr, e⟩)
      exact (read_writeAll_other (m.write p.1.toNat p.2) hn).trans
        (Memory.read_write_same hm _ _)
    · exact ih (Memory.wf_write q.2 hm q.1.isLt) hl hp

/-- The bytes of a store with the addresses they go to. -/
def storedBytes (sz : Size) (a v : Long) : List (Addr × Byte) :=
  (bytesFrom a (bytesOf sz)).zip (valueBytes sz v)

theorem storeBytes_eq_writeAll (m : Memory) (sz : Size) (a v : Long) :
    storeBytes m sz a v = writeAll m (storedBytes sz a v) := rfl

theorem length_bytesFrom (a : Long) (n : Nat) : (bytesFrom a n).length = n := by
  simp [bytesFrom]

theorem length_valueBytes (sz : Size) (v : Long) : (valueBytes sz v).length = bytesOf sz := by
  cases sz <;> rfl

theorem bytesOf_le_four (sz : Size) : bytesOf sz ≤ 4 := by
  cases sz <;> decide

/-- The addresses of an access are all different on the 24-bit bus. -/
theorem nodup_bytesFrom (a : Long) {n : Nat} (hn : n ≤ 2 ^ 24) : (bytesFrom a n).Nodup := by
  refine List.Nodup.map_on (fun i hi j hj e => ?_) List.nodup_range
  have h := congrArg BitVec.toNat ((BitVec.add_right_inj _).1 e)
  rw [List.mem_range] at hi hj
  rwa [BitVec.toNat_ofNat, BitVec.toNat_ofNat, Nat.mod_eq_of_lt (by omega),
    Nat.mod_eq_of_lt (by omega)] at h

theorem fst_storedBytes (sz : Size) (a v : Long) :
    (storedBytes sz a v).map Prod.fst = bytesFrom a (bytesOf sz) :=
  List.map_fst_zip (by rw [length_bytesFrom, length_valueBytes])

theorem read_storeBytes_other (m : Memory) (sz : Size) (a v : Long) {b : Addr}
    (hb : b ∉ bytesFrom a (bytesOf sz)) :
    (storeBytes m sz a v).read b.toNat = m.read b.toNat := by
  rw [storeBytes_eq_writeAll]
  refine read_writeAll_other m fun p hp e => hb ?_
  rw [← fst_storedBytes sz a v, ← e]
  exact List.mem_map_of_mem hp

theorem read_storeBytes {m : Memory} (hm : m.wf = true) (sz : Size) (a v : Long) {k : Nat}
    (hk : k < bytesOf sz) :
    (storeBytes m sz a v).read (busAddr a + BitVec.ofNat 24 k).toNat =
      (valueBytes sz v).getD k 0 := by
  have hnd : ((storedBytes sz a v).map Prod.fst).Nodup := by
    rw [fst_storedBytes]
    exact nodup_bytesFrom a (by have := bytesOf_le_four sz; omega)
  have hv : k < (valueBytes sz v).length := by rwa [length_valueBytes]
  have hf : k < (bytesFrom a (bytesOf sz)).length := by rwa [length_bytesFrom]
  have hp : (busAddr a + BitVec.ofNat 24 k, (valueBytes sz v)[k]) ∈ storedBytes sz a v := by
    refine List.mem_iff_getElem.2 ⟨k, by simp [storedBytes, hv, hf], ?_⟩
    simp [storedBytes, bytesFrom]
  rw [List.getD_eq_getElem _ _ hv]
  exact read_writeAll hm hnd hp

/-- Two bytes of a value that stand one after the other. -/
theorem byte_append_byte (v : Long) {m n : Nat} (h : m = n + 8) :
    v.extractLsb' m 8 ++ v.extractLsb' n 8 = v.extractLsb' n 16 :=
  BitVec.extractLsb'_append_extractLsb'_eq_extractLsb' h

/-- A load of what was stored (R106). -/
theorem valueAt_putMem (hm : s.mem.wf = true) (sz : Size) (a v : Long) :
    valueAt (putMem sz a v s) sz a = trunc sz v := by
  have byte {b : Addr} (k : Nat) (hk : k < bytesOf sz) (hb : b = busAddr a + BitVec.ofNat 24 k) :
      (putMem sz a v s).mem.read b.toNat = (valueBytes sz v).getD k 0 := by
    rw [hb]
    exact read_storeBytes hm sz a v hk
  have first : busAddr a = busAddr a + BitVec.ofNat 24 0 := (BitVec.add_zero _).symm
  cases sz with
  | b =>
    rw [valueAt, byte 0 (by decide) first, trunc,
      BitVec.setWidth_eq_extractLsb' (by decide : 8 ≤ 32)]
    rfl
  | w =>
    rw [valueAt, wordAt, byte 0 (by decide) first, byte (b := busAddr a + 1) 1 (by decide) rfl,
      trunc, BitVec.setWidth_eq_extractLsb' (by decide : 16 ≤ 32)]
    exact congrArg (BitVec.setWidth 32) (byte_append_byte v rfl)
  | l =>
    have fourth : busAddr (a + 2) + 1 = busAddr a + BitVec.ofNat 24 3 := by
      rw [busAddr_add, BitVec.add_assoc]
      rfl
    rw [valueAt, wordAt, wordAt, byte 0 (by decide) first,
      byte (b := busAddr a + 1) 1 (by decide) rfl, byte 2 (by decide) (busAddr_add a 2),
      byte 3 (by decide) fourth]
    have hi : v.extractLsb' 24 8 ++ v.extractLsb' 16 8 = v.extractLsb' 16 16 :=
      byte_append_byte v rfl
    have lo : v.extractLsb' 8 8 ++ v.extractLsb' 0 8 = v.extractLsb' 0 16 :=
      byte_append_byte v rfl
    have whole : v.extractLsb' 16 16 ++ v.extractLsb' 0 16 = v.extractLsb' 0 32 :=
      BitVec.extractLsb'_append_extractLsb'_eq_extractLsb' rfl
    exact (congrArg₂ (· ++ ·) hi lo).trans (whole.trans BitVec.extractLsb'_eq_self)

/-! ### What stands in FC (R120) -/

theorem fc_of_access {x : Exec α} {r : α} {fc : BitVec 3} (hx : OnBus x)
    (e : x (withFc fc s) = .ok r t) : t.fc = if s.cfg.fcEmulation then fc else s.fc := by
  rw [(hx _).1 r t e]
  rfl

theorem fc_of_memRead {ph : Phase} {w : Long} (e : memRead ph sz a s = .ok w t) :
    t.fc = if s.cfg.fcEmulation then s.dataFc else s.fc := by
  cases hm : misaligned sz a with
  | true => rw [memRead_misaligned ph hm] at e; cases e
  | false =>
    obtain ⟨x, hx, ex⟩ := memRead_onBus (s := s) ph hm
    exact fc_of_access hx (ex ▸ e)

theorem fc_of_memWrite {ph : Phase} (e : memWrite ph sz a v s = .ok () t) :
    t.fc = if s.cfg.fcEmulation then s.dataFc else s.fc := by
  cases hm : misaligned sz a with
  | true => rw [memWrite_misaligned ph hm] at e; cases e
  | false =>
    obtain ⟨x, hx, ex⟩ := memWrite_onBus (s := s) ph hm v
    exact fc_of_access hx (ex ▸ e)

theorem fc_of_memReadPc {w : Long} (e : memReadPc sz a s = .ok w t) :
    t.fc = if s.cfg.fcEmulation then s.programFc else s.fc := by
  cases hm : misaligned sz a with
  | true => rw [memReadPc_misaligned hm] at e; cases e
  | false =>
    obtain ⟨x, hx, ex⟩ := memReadPc_onBus (s := s) hm
    exact fc_of_access hx (ex ▸ e)

theorem fc_of_fetchWord {w : Word} (e : fetchWord s = .ok w t) :
    t.fc = if s.cfg.fcEmulation then s.programFc else s.fc := by
  cases hm : s.pc.getLsbD 0 with
  | true => rw [fetchWord_odd hm] at e; cases e
  | false =>
    rw [fetchWord_even hm] at e
    obtain ⟨w', u, e1, e2⟩ := ok_of_bind e
    obtain ⟨x, hx, ex⟩ := driveFc_bind_onBus (onBus_fastWord s.pc) s.programFc s
    have hu : u.fc = _ := fc_of_access hx (ex ▸ e1)
    cases e2
    exact hu

/-! ### Program space (R116) -/

theorem fastByte_backed (h : backed s a = true) :
    fastByte a s = .ok (s.mem.read (busAddr a).toNat) s := by
  have hr : s.region (busAddr a) = .pointer := by simpa [backed] using h
  rw [fastByte, look_bind]
  simp only [id, hr, if_true, pure_apply]

theorem programPart_accessible (h : accessible s sz a = true) :
    programPart sz a s = .ok (valueAt s sz a) s := by
  have h1 : backed s a = true := by simpa [backed] using accessible_first h
  cases sz with
  | b => rw [programPart, bind_ok _ (fastByte_backed h1)]; rfl
  | w => rw [programPart, bind_ok _ (fastWord_backed h1)]; rfl
  | l =>
    have h2 : backed s (a + 2) = true := by simpa [backed] using accessible_second h
    rw [programPart, bind_ok _ (fastWord_backed h1), bind_ok _ (fastWord_backed h2)]
    rfl

/-- A PC-relative load: the value memory holds, FC driven. -/
theorem memReadPc_accessible (hq : quiet s = true) (h : accessible s sz a = true) :
    memReadPc sz a s = .ok (valueAt s sz a) (driven s.programFc s) := by
  rw [memReadPc_aligned (accessible_aligned h), bind_ok _ (driveFc_quiet hq _),
    programPart_accessible (by rwa [accessible_driven]), valueAt_driven]

/-! ### Hooks (R103, R583) -/

/-- The call of the read hook of a size. -/
def readCall (sz : Size) (b : Addr) : Call := if sz = .b then .read8 b else .read16 b

/-- The call of the write hook of a size. -/
def writeCall (sz : Size) (b : Addr) (v : Long) : Call :=
  if sz = .b then .write8 b (v.setWidth 8) else .write16 b (v.setWidth 16)

theorem busRead_hooked (hsz : sz ≠ .l) (h : hooked s sz .read a = true) :
    busRead sz a s =
      (callHook (readCall sz (busAddr a)) >>= fun v => pure (trunc sz v)) s := by
  unfold hooked at h
  cases hr : s.region (busAddr a) with
  | pointer => simp [hr] at h
  | unmapped => simp [hr, serves] at h
  | callbacks r8 r16 w8 w16 =>
    cases sz with
    | l => exact absurd rfl hsz
    | b =>
      obtain rfl : r8 = true := by simpa [hr, serves] using h
      simp only [busRead, busRead8, bind_assoc, look_bind, id, hr, pure_bind]
      rfl
    | w =>
      obtain rfl : r16 = true := by simpa [hr, serves] using h
      simp only [busRead, busRead16, bind_assoc, look_bind, id, hr, pure_bind]
      rfl

theorem busWrite_hooked (hsz : sz ≠ .l) (h : hooked s sz .write a = true) (v : Long) :
    busWrite sz a v s =
      (callHook (writeCall sz (busAddr a) v) >>= fun _ => pure ()) s := by
  unfold hooked at h
  cases hr : s.region (busAddr a) with
  | pointer => simp [hr] at h
  | unmapped => simp [hr, serves] at h
  | callbacks r8 r16 w8 w16 =>
    cases sz with
    | l => exact absurd rfl hsz
    | b =>
      obtain rfl : w8 = true := by simpa [hr, serves] using h
      simp only [busWrite, busWrite8, look_bind, id, hr]
      rfl
    | w =>
      obtain rfl : w16 = true := by simpa [hr, serves] using h
      simp only [busWrite, busWrite16, look_bind, id, hr]
      rfl

/-- A hook with an answer to come: its moves are applied, its value answered. -/
theorem callHook_answer {ans : Answer} {rest : List Answer} (h : s.script = ans :: rest)
    (c : Call) :
    callHook c s = (applyMoves ans.moves >>= fun _ => pure ans.value)
      { s with calls := s.calls ++ [c], script := rest } := by
  rw [callHook, recordCall, update_bind, hostAnswer, look_bind, h]
  rfl

/-- A hook without an answer to come: a free value (log 1). -/
theorem callHook_free (h : s.script = []) (c : Call) :
    callHook c s = .ok (Config.freeLong s.draws)
      { s with calls := s.calls ++ [c], draws := s.draws + 1 } := by
  rw [callHook, recordCall, update_bind, hostAnswer, look_bind, h]
  rfl

/-! ### A store that is clear of the window (R130) -/

theorem bind_congr_ok {x : Exec α} {f g : α → Exec β}
    (h : ∀ r t, x s = .ok r t → f r t = g r t) : (x >>= f) s = (x >>= g) s := by
  rw [bind_apply, bind_apply]
  cases e : x s with
  | ok r t => exact h r t e
  | error st t => rfl

/-- After its bytes are stored a clear store has no more to do. -/
theorem storePart_clear {ph : Phase} (hc : ph = .instruction → clearOf s.pc a sz = true)
    (v : Long) : storePart ph sz a v s = busWrite sz a v s := by
  have key : storePart ph sz a v s = (busWrite sz a v >>= pure) s := by
    refine bind_congr_ok fun r t e => ?_
    have hpc : t.pc = s.pc := by rw [(onBus_busWrite sz a v s).1 r t e]
    cases ph with
    | instruction => exact hazardCheck_clear t (hpc ▸ hc rfl)
    | exception => rfl
  rw [key, bind_pure]

end Sys2Proof.Machine
end

section
/-!
SUPPORT. Loads and stores as the rules say them: through hooks (R103), and a long as two words
(R104).
-/

namespace Sys2Proof.Machine

variable {α β : Type} {s t u : State} {sz : Size} {a v : Long}

theorem bind_congr_left {x y : Exec α} (h : x s = y s) (f : α → Exec β) :
    (x >>= f) s = (y >>= f) s := by
  rw [bind_apply, bind_apply, h]

theorem busKept_driveFc {fc : BitVec 3} (e : driveFc fc s = .ok () t) :
    BusKept (withFc fc s) t := by
  obtain ⟨x, hx, ex⟩ := driveFc_onBus fc s
  exact (hx _).1 () t (ex ▸ e)

/-- A store clear of the window drives FC and stores its bytes. -/
theorem memWrite_clear (ph : Phase) (hm : misaligned sz a = false)
    (hc : ph = .instruction → clearOf s.pc a sz = true) (v : Long) :
    memWrite ph sz a v s = (driveFc s.dataFc >>= fun _ => busWrite sz a v) s := by
  rw [memWrite_aligned ph hm]
  refine bind_congr_ok fun _ t e => storePart_clear (fun hp => ?_) v
  have hpc : t.pc = s.pc := by rw [busKept_driveFc e]; rfl
  rw [hpc]
  exact hc hp

/-! ### Through hooks -/

theorem driven_script (fc : BitVec 3) (s : State) : (driven fc s).script = s.script :=
  (sameButBus_driven fc s).congr State.script

theorem driven_draws (fc : BitVec 3) (s : State) : (driven fc s).draws = s.draws :=
  (sameButBus_driven fc s).congr State.draws

theorem hooked_driven (fc : BitVec 3) (s : State) (sz : Size) (dir : Direction) (a : Long) :
    hooked (driven fc s) sz dir a = hooked s sz dir a :=
  (sameButBus_driven fc s).congr fun s => hooked s sz dir a

theorem memRead_hooked (ph : Phase) (hd : s.handlers.fcChange = .default) (hsz : sz ≠ .l)
    (hm : misaligned sz a = false) (hh : hooked s sz .read a = true) :
    memRead ph sz a s =
      (callHook (readCall sz (busAddr a)) >>= fun v => pure (trunc sz v)) (driven s.dataFc s) := by
  rw [memRead_aligned ph hm, bind_ok _ (driveFc_default hd _),
    busRead_hooked hsz (by rwa [hooked_driven])]

theorem memWrite_hooked (ph : Phase) (hd : s.handlers.fcChange = .default) (hsz : sz ≠ .l)
    (hm : misaligned sz a = false) (hh : hooked s sz .write a = true)
    (hc : ph = .instruction → clearOf s.pc a sz = true) (v : Long) :
    memWrite ph sz a v s =
      (callHook (writeCall sz (busAddr a) v) >>= fun _ => pure ()) (driven s.dataFc s) := by
  rw [memWrite_clear ph hm hc, bind_ok _ (driveFc_default hd _),
    busWrite_hooked hsz (by rwa [hooked_driven])]

/-- What an access through a hook answers when an answer is to come. -/
theorem callHook_bind_answer {ans : Answer} {rest : List Answer} (h : s.script = ans :: rest)
    (c : Call) (f : Long → α) :
    (∀ t, applyMoves ans.moves { s with calls := s.calls ++ [c], script := rest } = .ok () t →
      (callHook c >>= fun v => pure (f v)) s = .ok (f ans.value) t) ∧
    ∀ e t, applyMoves ans.moves { s with calls := s.calls ++ [c], script := rest } = .error e t →
      (callHook c >>= fun v => pure (f v)) s = .error e t := by
  refine ⟨fun t e => ?_, fun e t h' => ?_⟩
  · rw [bind_ok _ ((callHook_answer h c).trans (bind_ok _ e))]
    rfl
  · exact bind_error _ ((callHook_answer h c).trans (bind_error _ h'))

/-! ### A long as two words (R104) -/

/-- After an access its function code is in FC, and the next access of its kind drives nothing. -/
theorem memRead_again (ph : Phase) (h : BusKept (withFc s.dataFc s) t)
    (hm : misaligned sz a = false) : memRead ph sz a t = busRead sz a t := by
  rw [memRead_aligned ph hm, bind_ok _ (driveFc_again fun he => ?_)]
  rw [h] at he ⊢
  exact if_pos he

theorem memWrite_again (ph : Phase) (h : BusKept (withFc s.dataFc s) t)
    (hm : misaligned sz a = false) (hc : ph = .instruction → clearOf s.pc a sz = true) (v : Long) :
    memWrite ph sz a v t = busWrite sz a v t := by
  have hpc : t.pc = s.pc := by rw [h]; rfl
  rw [memWrite_clear ph hm (hpc ▸ hc), bind_ok _ (driveFc_again fun he => ?_)]
  rw [h] at he ⊢
  exact if_pos he

theorem misaligned_second (h : misaligned .l a = false) :
    misaligned .w a = false ∧ misaligned .w (a + 2) = false := by
  have h0 : (a + 2).getLsbD 0 = a.getLsbD 0 := by
    simp [BitVec.getLsbD, Nat.testBit_zero]
  exact ⟨h, h0.trans h⟩

theorem memRead_long (ph : Phase) (hm : misaligned .l a = false) :
    memRead ph .l a s = (do
      let hi ← memRead ph .w a
      let lo ← memRead ph .w (a + 2)
      pure (hi.extractLsb' 0 16 ++ lo.extractLsb' 0 16)) s := by
  obtain ⟨h1, h2⟩ := misaligned_second hm
  have hw (w : Word) : (w.setWidth 32).extractLsb' 0 16 = w := by
    ext i hi
    simp [hi]
    omega
  have first : memRead ph .w a s = ((driveFc s.dataFc >>= fun _ => busRead16 (busAddr a)) >>=
      fun w => pure (w.setWidth 32)) s := by
    rw [memRead_aligned ph h1, bind_assoc]
    rfl
  rw [bind_congr_left first, bind_assoc, memRead_aligned ph hm, busRead, ← bind_assoc]
  refine bind_congr_ok fun hi t e => ?_
  obtain ⟨x, hx, ex⟩ := driveFc_bind_onBus (onBus_busRead16 (busAddr a)) s.dataFc s
  have again := memRead_again ph ((hx _).1 hi t (ex ▸ e)) h2
  rw [pure_bind, bind_congr_left again, busRead]
  simp only [bind_assoc, pure_bind, hw]

theorem clearOf_halves {pc : Long} (h : clearOf pc a .l = true) :
    clearOf pc a .w = true ∧ clearOf pc (a + 2) .w = true := by
  have hb : bytesFrom a 4 = bytesFrom a 2 ++ bytesFrom (a + 2) 2 := by
    simp only [bytesFrom, List.range_succ, List.range_zero, List.nil_append, List.map_cons,
      List.map_nil, List.cons_append, busAddr_add, BitVec.add_assoc]
    rfl
  simp only [clearOf, bytesOf, hb, List.all_append, Bool.and_eq_true] at h ⊢
  exact h

theorem memWrite_long (ph : Phase) (hm : misaligned .l a = false)
    (hc : ph = .instruction → clearOf s.pc a .l = true) (v : Long) :
    memWrite ph .l a v s = (do
      memWrite ph .w a (v >>> 16)
      memWrite ph .w (a + 2) v) s := by
  obtain ⟨h1, h2⟩ := misaligned_second hm
  have hv : (v >>> 16).setWidth 16 = v.extractLsb' 16 16 := by
    ext i hi
    simp
  have first := memWrite_clear ph h1 (fun hp => (clearOf_halves (hc hp)).1) (v >>> 16)
  rw [bind_congr_left first, memWrite_clear ph hm hc, busWrite, busWrite, hv, ← bind_assoc]
  refine bind_congr_ok fun _ t e => ?_
  obtain ⟨x, hx, ex⟩ := driveFc_bind_onBus (onBus_busWrite16 (busAddr a) (v.extractLsb' 16 16))
    s.dataFc s
  have again := memWrite_again ph ((hx _).1 () t (ex ▸ e)) h2
    (fun hp => (clearOf_halves (hc hp)).2) v
  rw [again, busWrite, BitVec.setWidth_eq_extractLsb' (by decide : 16 ≤ 32)]

/-! ### The obligation -/

/-- A store in quiet, pointer-backed memory, and a load of the same place after it. -/
theorem store_then_load (ph : Phase) (hq : quiet s = true) (hm : s.mem.wf = true)
    (ha : accessible s sz a = true) (hc : ph = .instruction → clearOf s.pc a sz = true) (v : Long) :
    ∃ t, memWrite ph sz a v s = .ok () t ∧ SameButBus t (putMem sz a v s) ∧
      (∀ b : Addr, b ∉ bytesFrom a (bytesOf sz) → t.mem.read b.toNat = s.mem.read b.toNat) ∧
      (∀ k, k < bytesOf sz →
        t.mem.read (busAddr a + BitVec.ofNat 24 k).toNat = (valueBytes sz v).getD k 0) ∧
      ∃ u, memRead ph sz a t = .ok (trunc sz v) u ∧ SameButBus u t := by
  obtain ⟨t, et, bt⟩ := sameButBus_memWrite ph hq ha hc v
  have hmem : t.mem = storeBytes s.mem sz a v := bt.congr State.mem
  have hqt : quiet t = true := (bt.congr quiet).trans hq
  have hat : accessible t sz a = true := (bt.congr fun t => accessible t sz a).trans ha
  have hval : valueAt t sz a = trunc sz v :=
    (bt.congr fun t => valueAt t sz a).trans (valueAt_putMem hm sz a v)
  refine ⟨t, et, bt, fun b hb => ?_, fun k hk => ?_, ?_⟩
  · rw [hmem, read_storeBytes_other s.mem sz a v hb]
  · rw [hmem, read_storeBytes hm sz a v hk]
  · rw [← hval]
    exact sameButBus_memRead ph hqt hat

/-- Settles O9: `store_then_load`; the accesses of quiet memory, and what each leaves in FC; hooks
by `callHook_bind_answer` and `callHook_free`; longs by `memRead_long` and `memWrite_long`. -/
theorem storeThenLoad : Obligations.StoreThenLoad := by
  unfold Obligations.StoreThenLoad
  refine ⟨fun s ph sz a v hq hm ha hc => store_then_load ph hq hm ha hc v,
    fun s ph sz a v hq => ⟨fun ha => ?_, fetchWord_fetchable hq⟩,
    fun s t ph sz a v w x => ⟨fc_of_memRead, fc_of_memWrite, fc_of_memReadPc, fc_of_fetchWord⟩,
    fun s ph sz a v hd hsz hm => ⟨fun ans rest hs => ?_, fun hs => ?_⟩,
    fun s ph a v hm => ⟨memRead_long ph hm, fun hc => memWrite_long ph hm hc v⟩⟩
  · exact ⟨memRead_accessible ph hq ha, memReadPc_accessible hq ha,
      fun hc => memWrite_accessible ph hq ha hc v⟩
  · have answer := callHook_bind_answer (α := Long) ((driven_script s.dataFc s).trans hs)
    have done := callHook_bind_answer (α := Unit) ((driven_script s.dataFc s).trans hs)
    refine ⟨fun hh => ?_, fun hh hc => ?_⟩
    · rw [memRead_hooked ph hd hsz hm hh]
      exact answer _ (trunc sz)
    · rw [memWrite_hooked ph hd hsz hm hh hc]
      exact done _ fun _ => ()
  · have free := callHook_free ((driven_script s.dataFc s).trans hs)
    refine ⟨fun hh => ⟨Config.freeLong s.draws, ?_⟩, fun hh hc => ?_⟩
    · rw [memRead_hooked ph hd hsz hm hh, bind_ok _ (free _), driven_draws]
      rfl
    · rw [memWrite_hooked ph hd hsz hm hh hc, bind_ok _ (free _), driven_draws]
      rfl

end Sys2Proof.Machine
end

section
/-!
SUPPORT. The model faults of accesses: regions that do not serve (R105), program space outside
pointer-backed regions (R114, R116), and the prefetch hazard (R130, R423, R427).
-/

namespace Sys2Proof.Machine

variable {s t : State} {sz : Size} {a v : Long} {x : Addr}

/-! ### Regions that do not serve (R105) -/

theorem busRead8_unserved {b : Addr} (h : serves (s.region b) .b .read = false) :
    busRead8 b s = .error (.fault (.unmapped b 1 .read)) s := by
  rw [busRead8, look_bind, id]
  cases hr : s.region b with
  | pointer => rw [hr] at h; cases h
  | unmapped => rfl
  | callbacks r8 r16 w8 w16 => rw [hr] at h; cases h; rfl

theorem busRead16_unserved {b : Addr} (h : serves (s.region b) .w .read = false) :
    busRead16 b s = .error (.fault (.unmapped b 2 .read)) s := by
  rw [busRead16, look_bind, id]
  cases hr : s.region b with
  | pointer => rw [hr] at h; cases h
  | unmapped => rfl
  | callbacks r8 r16 w8 w16 => rw [hr] at h; cases h; rfl

theorem busWrite8_unserved {b : Addr} (h : serves (s.region b) .b .write = false) (v : Byte) :
    busWrite8 b v s = .error (.fault (.unmapped b 1 .write)) s := by
  rw [busWrite8, look_bind, id]
  cases hr : s.region b with
  | pointer => rw [hr] at h; cases h
  | unmapped => rfl
  | callbacks r8 r16 w8 w16 => rw [hr] at h; cases h; rfl

theorem busWrite16_unserved {b : Addr} (h : serves (s.region b) .w .write = false) (v : Word) :
    busWrite16 b v s = .error (.fault (.unmapped b 2 .write)) s := by
  rw [busWrite16, look_bind, id]
  cases hr : s.region b with
  | pointer => rw [hr] at h; cases h
  | unmapped => rfl
  | callbacks r8 r16 w8 w16 => rw [hr] at h; cases h; rfl

theorem serves_long (r : Region) (dir : Direction) : serves r .l dir = serves r .w dir := by
  cases r <;> cases dir <;> rfl

theorem busRead_unserved (h : serves (s.region (busAddr a)) sz .read = false) :
    busRead sz a s =
      .error (.fault (.unmapped (busAddr a) (if sz = .b then 1 else 2) .read)) s := by
  cases sz with
  | b => exact bind_error _ (busRead8_unserved h)
  | w => exact bind_error _ (busRead16_unserved h)
  | l => exact bind_error _ (busRead16_unserved (serves_long _ _ ▸ h))

theorem busWrite_unserved (h : serves (s.region (busAddr a)) sz .write = false) (v : Long) :
    busWrite sz a v s =
      .error (.fault (.unmapped (busAddr a) (if sz = .b then 1 else 2) .write)) s := by
  cases sz with
  | b => exact busWrite8_unserved h _
  | w => exact busWrite16_unserved h _
  | l => exact bind_error _ (busWrite16_unserved (serves_long _ _ ▸ h) _)

/-! ### Regions that serve -/

/-- An access that nothing of the host can stop: of pointer-backed memory, or with no answer of a
hook to come (R583). -/
def Undisturbed (s : State) (a : Long) : Prop := backed s a = true ∨ s.script = []

theorem backed_driven (fc : BitVec 3) (s : State) (a : Long) :
    backed (driven fc s) a = backed s a :=
  (sameButBus_driven fc s).congr fun s => backed s a

theorem undisturbed_driven {fc : BitVec 3} (h : Undisturbed s a) : Undisturbed (driven fc s) a :=
  h.imp ((backed_driven fc s a).trans ·) ((driven_script fc s).trans ·)

theorem callHook_ok (h : s.script = []) (c : Call) : ∃ r t, callHook c s = .ok r t :=
  ⟨_, _, callHook_free h c⟩

theorem busRead16_served (h : serves (s.region (busAddr a)) .w .read = true)
    (hu : Undisturbed s a) : ∃ w t, busRead16 (busAddr a) s = .ok w t := by
  cases hr : s.region (busAddr a) with
  | pointer => exact ⟨_, _, busRead16_pointer hr⟩
  | unmapped => rw [hr] at h; cases h
  | callbacks r8 r16 w8 w16 =>
    rw [hr] at h
    cases h
    obtain ⟨r, t, e⟩ := callHook_ok (hu.resolve_left (by simp [backed, hr])) (.read16 (busAddr a))
    refine ⟨r.setWidth 16, t, ?_⟩
    rw [busRead16, look_bind, id, hr]
    exact bind_ok _ e

theorem busWrite8_served (h : serves (s.region (busAddr a)) .b .write = true)
    (hu : Undisturbed s a) (v : Byte) : ∃ t, busWrite8 (busAddr a) v s = .ok () t := by
  cases hr : s.region (busAddr a) with
  | pointer => exact ⟨_, busWrite8_pointer hr v⟩
  | unmapped => rw [hr] at h; cases h
  | callbacks r8 r16 w8 w16 =>
    rw [hr] at h
    cases h
    obtain ⟨r, t, e⟩ :=
      callHook_ok (hu.resolve_left (by simp [backed, hr])) (.write8 (busAddr a) v)
    refine ⟨t, ?_⟩
    rw [busWrite8, look_bind, id, hr]
    exact bind_ok _ e

theorem busWrite16_served (h : serves (s.region (busAddr a)) .w .write = true)
    (hu : Undisturbed s a) (v : Word) : ∃ t, busWrite16 (busAddr a) v s = .ok () t := by
  cases hr : s.region (busAddr a) with
  | pointer =>
    refine ⟨pokeBytes (busAddr a) [v.extractLsb' 8 8, v.extractLsb' 0 8] s, ?_⟩
    rw [busWrite16, look_bind, id, hr]
    rfl
  | unmapped => rw [hr] at h; cases h
  | callbacks r8 r16 w8 w16 =>
    rw [hr] at h
    cases h
    obtain ⟨r, t, e⟩ :=
      callHook_ok (hu.resolve_left (by simp [backed, hr])) (.write16 (busAddr a) v)
    refine ⟨t, ?_⟩
    rw [busWrite16, look_bind, id, hr]
    exact bind_ok _ e

theorem BusKept.region (h : BusKept s t) (b : Addr) : t.region b = s.region b := by
  rw [h]
  rfl

theorem busWrite_served (h1 : serves (s.region (busAddr a)) sz .write = true)
    (h2 : sz = .l → serves (s.region (busAddr (a + 2))) sz .write = true)
    (hu : accessible s sz a = true ∨ s.script = []) (v : Long) :
    ∃ t, busWrite sz a v s = .ok () t := by
  rcases hu with ha | hs
  · exact ⟨_, busWrite_accessible ha v⟩
  cases sz with
  | b => exact busWrite8_served h1 (.inr hs) _
  | w => exact busWrite16_served h1 (.inr hs) _
  | l =>
    obtain ⟨t, et⟩ := busWrite16_served (serves_long _ _ ▸ h1) (.inr hs) (v.extractLsb' 16 16)
    have kept := (onBus_busWrite16 (busAddr a) (v.extractLsb' 16 16) s).1 () t et
    have script := ((calmly_busWrite16 (busAddr a) _ s).ok et).lines hs
    obtain ⟨u, eu⟩ := busWrite16_served (s := t) (a := a + 2)
      (by rw [kept.region, ← serves_long]; exact h2 rfl) (.inr script.1) (v.extractLsb' 0 16)
    exact ⟨u, (bind_ok _ et).trans eu⟩

/-! ### Data accesses -/

theorem region_driven (fc : BitVec 3) (s : State) (b : Addr) :
    (driven fc s).region b = s.region b :=
  (sameButBus_driven fc s).congr fun s => s.region b

theorem memRead_unserved (ph : Phase) (hq : quiet s = true) (hm : misaligned sz a = false)
    (h : serves (s.region (busAddr a)) sz .read = false) :
    ∃ t, memRead ph sz a s =
      .error (.fault (.unmapped (busAddr a) (if sz = .b then 1 else 2) .read)) t := by
  refine ⟨driven s.dataFc s, ?_⟩
  rw [memRead_aligned ph hm, bind_ok _ (driveFc_quiet hq _),
    busRead_unserved (by rwa [region_driven])]

theorem storePart_error {ph : Phase} {e : Stop} (h : busWrite sz a v s = .error e t) :
    storePart ph sz a v s = .error e t := bind_error _ h

theorem memWrite_unserved (ph : Phase) (hq : quiet s = true) (hm : misaligned sz a = false)
    (h : serves (s.region (busAddr a)) sz .write = false) (v : Long) :
    ∃ t, memWrite ph sz a v s =
      .error (.fault (.unmapped (busAddr a) (if sz = .b then 1 else 2) .write)) t := by
  refine ⟨driven s.dataFc s, ?_⟩
  rw [memWrite_aligned ph hm, bind_ok _ (driveFc_quiet hq _),
    storePart_error (busWrite_unserved (by rwa [region_driven]) v)]

theorem memRead_second_unserved (ph : Phase) (hq : quiet s = true) (hm : misaligned .l a = false)
    (hu : Undisturbed s a) (h1 : serves (s.region (busAddr a)) .l .read = true)
    (h2 : serves (s.region (busAddr (a + 2))) .l .read = false) :
    ∃ t, memRead ph .l a s = .error (.fault (.unmapped (busAddr (a + 2)) 2 .read)) t := by
  obtain ⟨w, t, et⟩ := busRead16_served (s := driven s.dataFc s)
    (by rw [region_driven, ← serves_long]; exact h1) (undisturbed_driven hu)
  have kept := (onBus_busRead16 (busAddr a) _).1 w t et
  refine ⟨t, ?_⟩
  rw [memRead_aligned ph hm, bind_ok _ (driveFc_quiet hq _), busRead, bind_ok _ et]
  exact bind_error _ (busRead16_unserved
    (by rw [kept.region, region_driven, ← serves_long]; exact h2))

theorem memWrite_second_unserved (ph : Phase) (hq : quiet s = true)
    (hm : misaligned .l a = false) (hu : Undisturbed s a)
    (h1 : serves (s.region (busAddr a)) .l .write = true)
    (h2 : serves (s.region (busAddr (a + 2))) .l .write = false) (v : Long) :
    ∃ t, memWrite ph .l a v s = .error (.fault (.unmapped (busAddr (a + 2)) 2 .write)) t := by
  obtain ⟨t, et⟩ := busWrite16_served (s := driven s.dataFc s)
    (by rw [region_driven, ← serves_long]; exact h1) (undisturbed_driven hu) (v.extractLsb' 16 16)
  have kept := (onBus_busWrite16 (busAddr a) (v.extractLsb' 16 16) _).1 () t et
  refine ⟨t, ?_⟩
  rw [memWrite_aligned ph hm, bind_ok _ (driveFc_quiet hq _)]
  refine storePart_error ((bind_ok _ et).trans (busWrite16_unserved ?_ _))
  rw [kept.region, region_driven, ← serves_long]
  exact h2

/-! ### Program space -/

theorem fastWord_unbacked (h : backed s a = false) :
    fastWord a s = .error (.fault (.fetchNotPointerBacked a)) s := by
  have hr : ¬s.region (busAddr a) = .pointer := by simpa [backed] using h
  rw [fastWord, look_bind]
  simp only [id, hr, if_false, failWith_apply]

theorem fastByte_unbacked (h : backed s a = false) :
    fastByte a s = .error (.fault (.fetchNotPointerBacked a)) s := by
  have hr : ¬s.region (busAddr a) = .pointer := by simpa [backed] using h
  rw [fastByte, look_bind]
  simp only [id, hr, if_false, failWith_apply]

theorem programPart_unbacked (h : backed s a = false) :
    programPart sz a s = .error (.fault (.fetchNotPointerBacked a)) s := by
  cases sz with
  | b => exact bind_error _ (fastByte_unbacked h)
  | w => exact bind_error _ (fastWord_unbacked h)
  | l => exact bind_error _ (fastWord_unbacked h)

theorem memReadPc_unbacked (hq : quiet s = true) (hm : misaligned sz a = false)
    (h : backed s a = false) :
    ∃ t, memReadPc sz a s = .error (.fault (.fetchNotPointerBacked a)) t := by
  refine ⟨driven s.programFc s, ?_⟩
  rw [memReadPc_aligned hm, bind_ok _ (driveFc_quiet hq _),
    programPart_unbacked (by rwa [backed_driven])]

theorem memReadPc_second_unbacked (hq : quiet s = true) (hm : misaligned .l a = false)
    (h1 : backed s a = true) (h2 : backed s (a + 2) = false) :
    ∃ t, memReadPc .l a s = .error (.fault (.fetchNotPointerBacked (a + 2))) t := by
  refine ⟨driven s.programFc s, ?_⟩
  rw [memReadPc_aligned hm, bind_ok _ (driveFc_quiet hq _), programPart,
    bind_ok _ (fastWord_backed (by rwa [backed_driven]))]
  exact bind_error _ (fastWord_unbacked (by rwa [backed_driven]))

theorem fetchWord_unbacked (hq : quiet s = true) (hm : s.pc.getLsbD 0 = false)
    (h : backed s s.pc = false) :
    ∃ t, fetchWord s = .error (.fault (.fetchNotPointerBacked s.pc)) t := by
  refine ⟨driven s.programFc s, ?_⟩
  rw [fetchWord_even hm]
  refine bind_error _ ((bind_ok _ (driveFc_quiet hq _)).trans (fastWord_unbacked ?_))
  rwa [backed_driven]

/-! ### The prefetch hazard (R130) -/

theorem hazardCheck_hit {base : Long} {n : Nat} (h : (bytesFrom a n).find? (inWindow base) = some x)
    (s : State) : hazardCheck base a n s = .error (.fault (.prefetchHazard x)) s := by
  simp only [hazardCheck, h, failWith_apply]

/-- A store of an instruction with a byte in the window of the next two words. -/
theorem memWrite_hazard (hq : quiet s = true) (hm : misaligned sz a = false)
    (h1 : serves (s.region (busAddr a)) sz .write = true)
    (h2 : sz = .l → serves (s.region (busAddr (a + 2))) sz .write = true)
    (hu : accessible s sz a = true ∨ s.script = [])
    (hx : (bytesFrom a (bytesOf sz)).find? (inWindow s.pc) = some x) (v : Long) :
    ∃ t, memWrite .instruction sz a v s = .error (.fault (.prefetchHazard x)) t := by
  obtain ⟨t, et⟩ := busWrite_served (s := driven s.dataFc s) (by rwa [region_driven])
    (fun hl => by rw [region_driven]; exact h2 hl)
    (hu.imp ((accessible_driven _ s sz a).trans ·) ((driven_script _ s).trans ·)) v
  have hpc : t.pc = s.pc := by
    rw [(onBus_busWrite sz a v _).1 () t et]
    exact (sameButBus_driven _ s).congr State.pc
  refine ⟨t, ?_⟩
  rw [memWrite_aligned _ hm, bind_ok _ (driveFc_quiet hq _), storePart, bind_ok _ et]
  exact hazardCheck_hit (hpc ▸ hx) t

/-- A call whose pushed bytes meet the first two words of its target (R423, R427). -/
theorem callTo_hazard (hq : quiet s = true) (hs : storable s s.pc .l (s.activeSp - 4) = true)
    (hx : (bytesFrom (s.activeSp - 4) 4).find? (inWindow a) = some x) :
    ∃ t, callTo a s = .error (.fault (.prefetchHazard x)) t := by
  simp only [storable, Bool.and_eq_true] at hs
  obtain ⟨t, et, bt⟩ := push_accessible (sz := .l) .instruction hq hs.1 (fun _ => hs.2) s.pc
  have hsp : t.activeSp = s.activeSp - 4 :=
    (bt.congr State.activeSp).trans (State.activeSp_setActiveSp s (s.activeSp - 4))
  refine ⟨t, ?_⟩
  rw [callTo, look_bind, bind_ok _ et, look_bind]
  exact bind_error _ (hazardCheck_hit (hsp ▸ hx) t)

theorem storable_congr (h : t.map = s.map) (pc : Long) (sz : Size) (a : Long) :
    storable t pc sz a = storable s pc sz a := by
  rw [storable, storable, accessible_congr h]

theorem activeSp_afterEa {ea : EA} (h : ea.inClass .ctrl = true) (s : State) (sz : Size) :
    (afterEa s sz ea).activeSp = s.activeSp := by
  cases ea with
  | postInc n | preDec n => simp [EA.inClass] at h
  | _ => rfl

theorem locOf_of_ctrl {ea : EA} (h : ea.inClass .ctrl = true) (s : State) (sz : Size) :
    addrOf (locOf s sz ea) = pure (eaAddr s sz ea) := by
  cases ea with
  | dreg n | areg n | imm => simp [EA.inClass] at h
  | _ => rfl

theorem exec_jsr_hazard {ea : EA} (hq : quiet s = true) (hc : ea.inClass .ctrl = true)
    (hr : resolvable s .l ea = true)
    (hs : storable s (afterEa s .l ea).pc .l (s.activeSp - 4) = true)
    (hx : (bytesFrom (s.activeSp - 4) 4).find? (inWindow (eaAddr s .l ea)) = some x) :
    exec (.jsr ea) s = .fault (.prefetchHazard x) := by
  obtain ⟨t, et, bt⟩ := sameButBus_resolveEa hq hr
  have hqt : quiet t = true := by
    rw [quiet, bt.congr State.handlers, afterEa_handlers]
    exact hq
  have hsp : t.activeSp = s.activeSp := (bt.congr State.activeSp).trans (activeSp_afterEa hc s .l)
  have hst : storable t t.pc .l (t.activeSp - 4) = true := by
    rw [hsp, bt.congr State.pc, storable_congr ((bt.congr State.map).trans (afterEa_map s .l ea))]
    exact hs
  obtain ⟨u, eu⟩ := callTo_hazard hqt hst (hsp ▸ hx)
  refine perform_fault (t := u) ?_
  rw [bind_ok _ et, locOf_of_ctrl hc, pure_bind_apply]
  exact bind_error _ eu

/-- The displacement of a branch and the state after its words (R158). -/
theorem sameButBus_branchDisp {d8 : Byte} (hq : quiet s = true)
    (hf : (d8 == 0) = true → fetchable s s.pc 1 = true) :
    ∃ t, branchDisp d8 s =
        .ok (if d8 == 0 then (wordAt s s.pc).signExtend 32 else d8.signExtend 32) t ∧
      SameButBus t (if d8 == 0 then skipWords 1 s else s) := by
  unfold branchDisp
  by_cases h : d8 = 0
  · subst h
    exact sameButBus_fetchDisp hq (hf rfl)
  · have h' : (d8 == 0) = false := beq_eq_false_iff_ne.2 h
    rw [if_neg h, h']
    exact ⟨s, rfl, .refl s⟩

theorem exec_bsr_hazard {d8 : Byte} (hq : quiet s = true)
    (hf : (d8 == 0) = true → fetchable s s.pc 1 = true)
    (hs : storable s (if d8 == 0 then skipWords 1 s else s).pc .l (s.activeSp - 4) = true)
    (hx : (bytesFrom (s.activeSp - 4) 4).find? (inWindow (s.pc +
      if d8 == 0 then (wordAt s s.pc).signExtend 32 else d8.signExtend 32)) = some x) :
    exec (.bsr d8) s = .fault (.prefetchHazard x) := by
  obtain ⟨t, et, bt⟩ := sameButBus_branchDisp hq hf
  have hqt : quiet t = true := (bt.congr quiet).trans (by split <;> exact hq)
  have hsp : t.activeSp = s.activeSp := (bt.congr State.activeSp).trans (by split <;> rfl)
  have hmap : t.map = s.map := (bt.congr State.map).trans (by split <;> rfl)
  have hst : storable t t.pc .l (t.activeSp - 4) = true := by
    rw [hsp, bt.congr State.pc, storable_congr hmap]
    exact hs
  obtain ⟨u, eu⟩ := callTo_hazard hqt hst (hsp ▸ hx)
  refine perform_fault (t := u) ?_
  rw [look_bind, bind_ok _ et]
  exact bind_error _ eu

/-- Settles O12: what serves no access, `memRead_unserved` and its like; program space,
`memReadPc_unbacked`; the windows of R130, `memWrite_hazard` and `callTo_hazard`. -/
theorem modelFaultsOfAccesses : Obligations.ModelFaultsOfAccesses := by
  unfold Obligations.ModelFaultsOfAccesses
  refine ⟨fun s ph sz a v hq hm => ⟨memRead_unserved ph hq hm, fun h => ?_, fun hl hu => ?_⟩,
    fun s sz a hq => ⟨fun hm => ⟨s, memReadPc_misaligned hm⟩, memReadPc_unbacked hq,
      fun hm hl => ?_, fetchWord_unbacked hq⟩,
    fun s sz a v x hq hm h1 h2 hu hx => memWrite_hazard hq hm h1 h2 hu hx v,
    fun s ea d8 x hq => ⟨exec_jsr_hazard hq, exec_bsr_hazard hq⟩⟩
  · exact memWrite_unserved ph hq hm h v
  · subst hl
    exact ⟨memRead_second_unserved ph hq hm hu,
      fun h1 h2 => memWrite_second_unserved ph hq hm hu h1 h2 v⟩
  · subst hl
    exact memReadPc_second_unbacked hq hm

end Sys2Proof.Machine
end

section
/-!
SUPPORT. Where a body stores: `StoresAt l x` says that `x`, with no host move to come, changes no
byte outside the places `l`; `StoresBy g x` says it of the places that `g` computes in the state
`x` starts in. One lemma for each shared operation of the bodies.
-/

namespace Sys2Proof.Machine

variable {α β : Type} {s t u : State} {sz : Size} {ea : EA} {a v : Long}
variable {l m : List (Size × Long)} {g : Exec (List (Size × Long))} {x : Exec α} {f : α → Exec β}

/-! ### The relation -/

/-- With no host move to come, no byte differs but those of the places `l`. -/
def StoredIn (l : List (Size × Long)) (s t : State) : Prop :=
  s.script = [] → t.script = [] ∧
    ∀ b : Addr, (∀ p ∈ l, b ∉ bytesFrom p.2 (bytesOf p.1)) →
      t.mem.read b.toNat = s.mem.read b.toNat

theorem StoredIn.mono (h : StoredIn l s t) (hl : ∀ p ∈ l, p ∈ m) : StoredIn m s t :=
  fun hs => ⟨(h hs).1, fun b hb => (h hs).2 b fun p hp => hb p (hl p hp)⟩

theorem StoredIn.trans (h : StoredIn l s t) (k : StoredIn l t u) : StoredIn l s u := fun hs =>
  have ⟨ht, h⟩ := h hs
  have ⟨hu, k⟩ := k ht
  ⟨hu, fun b hb => (k b hb).trans (h b hb)⟩

theorem StoredIn.of_nil (h : StoredIn [] s t) : StoredIn l s t := h.mono nofun

theorem StoredIn.of_eq (hm : t.mem = s.mem) (hs : t.script = s.script) : StoredIn l s t :=
  fun h => ⟨hs.trans h, fun _ _ => by rw [hm]⟩

/-- A calm change stores to no place but those whose bytes it names. -/
theorem StoredIn.of_calm {w : List Addr} (h : Calm w s t)
    (hw : ∀ b ∈ w, ∃ p ∈ l, b ∈ bytesFrom p.2 (bytesOf p.1)) : StoredIn l s t :=
  fun hs => ⟨(h.lines hs).1, fun b hb => h.bytes hs b fun hbw =>
    have ⟨p, hp, hpb⟩ := hw b hbw
    hb p hp hpb⟩

/-! ### Bodies that store to given places -/

/-- A body that stores to the places `l` alone. -/
def StoresAt (l : List (Size × Long)) (x : Exec α) : Prop :=
  ∀ s a t, x s = .ok a t → StoredIn l s t

theorem StoresAt.bind (hx : StoresAt l x) (hf : ∀ a, StoresAt l (f a)) : StoresAt l (x >>= f) :=
  fun s b u e =>
    have ⟨a, t, e1, e2⟩ := ok_of_bind e
    (hx s a t e1).trans (hf a t b u e2)

theorem storesAt_pure (a : α) : StoresAt l (pure a : Exec α) :=
  fun _ _ _ e => by cases e; exact .of_eq rfl rfl

theorem storesAt_look (h : State → α) : StoresAt l (look h) :=
  fun _ _ _ e => by cases e; exact .of_eq rfl rfl

theorem storesAt_failWith (e : Fault) : StoresAt l (failWith e : Exec α) :=
  fun _ _ _ e => (nomatch e)

/-- A change of registers alone. -/
theorem storesAt_update {h : State → State} (hm : ∀ s, (h s).mem = s.mem)
    (hs : ∀ s, (h s).script = s.script) : StoresAt l (update h) :=
  fun s _ _ e => by cases e; exact .of_eq (hm s) (hs s)

theorem storesAt_calmly (h : ∀ s, Calmly [] x s) : StoresAt l x :=
  fun s _ _ e => .of_calm ((h s).ok e) nofun

theorem storesAt_memWrite (ph : Phase) (h : (sz, a) ∈ l) (v : Long) :
    StoresAt l (memWrite ph sz a v) :=
  fun s _ _ e => .of_calm ((calmly_memWrite ph sz a v s).ok e) fun _ hb => ⟨_, h, hb⟩

/-! ### Bodies that store to computed places -/

/-- A body that stores to the places alone that `g` computes in the state the body starts in. -/
def StoresBy (g : Exec (List (Size × Long))) (x : Exec α) : Prop :=
  ∀ s a t, x s = .ok a t → StoredIn (sitesOf g s) s t

theorem StoresAt.storesBy (h : StoresAt l x) : StoresBy (pure l) x := h

/-- Places are computed by the part of a body that comes before its store. -/
theorem StoresBy.after {g : α → Exec (List (Size × Long))} (hx : StoresAt [] x)
    (hf : ∀ a, StoresBy (g a) (f a)) : StoresBy (x >>= g) (x >>= f) := fun s b u e => by
  obtain ⟨a, t, e1, e2⟩ := ok_of_bind e
  have h : sitesOf (x >>= g) s = sitesOf (g a) t := by rw [sitesOf, bind_ok _ e1, sitesOf]
  rw [h]
  exact (hx s a t e1).of_nil.trans (hf a t b u e2)

theorem StoresBy.look {h : State → α} (hf : ∀ a, StoresBy g (f a)) : StoresBy g (look h >>= f) :=
  fun s b u e => hf (h s) s b u e

/-- What follows the store stores nothing. -/
theorem StoresBy.bind (hx : StoresBy g x) (hf : ∀ a, StoresAt [] (f a)) : StoresBy g (x >>= f) :=
  fun s b u e =>
    have ⟨a, t, e1, e2⟩ := ok_of_bind e
    (hx s a t e1).trans (hf a t b u e2).of_nil

/-! ### Registers and condition codes -/

theorem storesAt_storeD (sz : Size) (n : Reg) (v : Long) : StoresAt l (storeD sz n v) :=
  storesAt_update (fun _ => rfl) fun _ => rfl

theorem storesAt_writeA (n : Reg) (h : State → Long) :
    StoresAt l (update fun s => s.writeA n (h s)) :=
  storesAt_update (fun s => s.writeA_mem n _) fun s => s.writeA_script n _

theorem storesAt_storeA (n : Reg) (v : Long) : StoresAt l (storeA n v) := storesAt_writeA n _

theorem storesAt_setActiveSp (h : State → Long) :
    StoresAt l (update fun s => s.setActiveSp (h s)) := storesAt_writeA 7 h

theorem storesAt_setPc (h : State → Long) : StoresAt l (update fun s => s.setPc (h s)) :=
  storesAt_update (fun _ => rfl) fun _ => rfl

theorem storesAt_setCcr (h : State → BitVec 5) : StoresAt l (update fun s => s.setCcr (h s)) :=
  storesAt_update (fun _ => rfl) fun _ => rfl

theorem storesAt_setSr (h : State → Word) : StoresAt l (update fun s => s.setSr (h s)) :=
  storesAt_update (fun _ => rfl) fun _ => rfl

/-- A body that changes condition codes alone. -/
def FlagsOnly (x : Exec α) : Prop := ∀ s a t, x s = .ok a t → ∃ f, t = s.setFlags f

theorem FlagsOnly.storesAt (h : FlagsOnly x) : StoresAt l x := fun s a t e => by
  obtain ⟨f, rfl⟩ := h s a t e
  exact .of_eq rfl rfl

theorem FlagsOnly.bind_pure (h : FlagsOnly x) (c : α → β) :
    FlagsOnly (x >>= fun a => pure (c a)) := fun s b t e => by
  obtain ⟨a, u, e1, e2⟩ := ok_of_bind e
  cases e2
  exact h s a _ e1

theorem FlagsOnly.look {h : State → α} (hf : ∀ a, FlagsOnly (f a)) : FlagsOnly (look h >>= f) :=
  fun s b t e => hf (h s) s b t e

theorem flagsOnly_setFlagsFrom (h : Flags → Flags) : FlagsOnly (setFlagsFrom h) :=
  fun _ _ _ e => by cases e; exact ⟨_, rfl⟩

theorem flagsOnly_setLogic (sz : Size) (r : Long) : FlagsOnly (setLogic sz r) :=
  flagsOnly_setFlagsFrom _

theorem flagsOnly_addOp (sz : Size) (d s : Long) : FlagsOnly (addOp sz d s) :=
  (flagsOnly_setFlagsFrom _).bind_pure _

theorem flagsOnly_subOp (sz : Size) (d s : Long) : FlagsOnly (subOp sz d s) :=
  (flagsOnly_setFlagsFrom _).bind_pure _

theorem flagsOnly_addXOp (sz : Size) (d s : Long) : FlagsOnly (addXOp sz d s) :=
  .look fun _ => (flagsOnly_setFlagsFrom _).bind_pure _

theorem flagsOnly_subXOp (sz : Size) (d s : Long) : FlagsOnly (subXOp sz d s) :=
  .look fun _ => (flagsOnly_setFlagsFrom _).bind_pure _

theorem flagsOnly_logicOp (sz : Size) (r : Long) : FlagsOnly (logicOp sz r) :=
  (flagsOnly_setLogic sz r).bind_pure _

theorem flagsOnly_cmpOp (sz : Size) (d s : Long) : FlagsOnly (cmpOp sz d s) :=
  flagsOnly_setFlagsFrom _

theorem flagsOnly_bcdOp (op : BcdOp) (d s : Long) : FlagsOnly (bcdOp op d s) :=
  .look fun _ => (flagsOnly_setFlagsFrom _).bind_pure _

/-! ### Operands (R160, R163) -/

theorem storesAt_resolveEa (sz : Size) (ea : EA) : StoresAt l (resolveEa sz ea) := by
  cases h : eaSteps ea with
  | none => exact storesAt_calmly (calmly_resolveEa sz h)
  | some n =>
    cases ea with
    | postInc m =>
      exact (storesAt_look _).bind fun _ => (storesAt_writeA m _).bind fun _ => storesAt_pure _
    | preDec m =>
      exact (storesAt_look _).bind fun _ => (storesAt_writeA m _).bind fun _ => storesAt_pure _
    | _ => cases h

theorem storesAt_readLoc (sz : Size) (loc : Loc) : StoresAt l (readLoc sz loc) :=
  storesAt_calmly (calmly_readLoc sz loc)

theorem storesAt_source (sz : Size) (ea : EA) : StoresAt l (source sz ea) :=
  (storesAt_resolveEa sz ea).bind fun loc => storesAt_readLoc sz loc

theorem storesAt_memRead (ph : Phase) (sz : Size) (a : Long) : StoresAt l (memRead ph sz a) :=
  storesAt_calmly (calmly_memRead ph sz a)

theorem storesAt_fetchWord : StoresAt l fetchWord := storesAt_calmly calmly_fetchWord

theorem storesAt_fetchDisp : StoresAt l fetchDisp := storesAt_calmly calmly_fetchDisp

theorem storesAt_immediate (sz : Size) : StoresAt l (immediate sz) :=
  storesAt_calmly (calmly_immediate sz)

theorem storesAt_dummyRead (sz : Size) (loc : Loc) : StoresAt l (dummyRead sz loc) :=
  storesAt_calmly (calmly_dummyRead sz loc)

theorem storesAt_addrOf (loc : Loc) : StoresAt l (addrOf loc) := storesAt_calmly (calmly_addrOf loc)

theorem storesAt_branchDisp (d8 : Byte) : StoresAt l (branchDisp d8) :=
  storesAt_calmly (calmly_branchDisp d8)

theorem storesAt_drawBit : StoresAt l drawBit := storesAt_calmly calmly_drawBit

theorem storesAt_callHandler (h : Handler) (c : Call) (d : Long) :
    StoresAt l (callHandler h c d) := storesAt_calmly (calmly_callHandler h c d)

theorem storesAt_pop (ph : Phase) (sz : Size) : StoresAt l (pop ph sz) :=
  (storesAt_look _).bind fun _ => (storesAt_memRead ph sz _).bind fun _ =>
    (storesAt_setActiveSp _).bind fun _ => storesAt_pure _

theorem storesAt_readPreDec (sz : Size) (n : Reg) : StoresAt l (readPreDec sz n) :=
  (storesAt_writeA n _).bind fun _ => (storesAt_look _).bind fun _ => storesAt_memRead _ sz _

theorem storesAt_readPostInc (sz : Size) (n : Reg) : StoresAt l (readPostInc sz n) :=
  (storesAt_look _).bind fun _ => (storesAt_memRead _ sz _).bind fun _ =>
    (storesAt_writeA n _).bind fun _ => storesAt_pure _

/-- Writing a resolved place stores there, if it is in memory. -/
theorem storesAt_writeLoc (sz : Size) (loc : Loc) (v : Long) :
    StoresAt (siteOfLoc sz loc) (writeLoc sz loc v) := by
  cases loc with
  | dreg n => exact storesAt_storeD sz n v
  | areg n => exact storesAt_storeA n v
  | mem a => exact storesAt_memWrite _ (.head _) v
  | pcMem a => exact storesAt_failWith _
  | imm w => exact storesAt_failWith _

/-! ### The places of an operand and of a push -/

theorem siteOfEa_ignoring (x : Exec α) (sz : Size) (ea : EA) :
    siteOfEa (ignoring x) sz ea = x >>= fun _ => siteOfEa (pure ()) sz ea := by
  simp only [siteOfEa, ignoring, bind_assoc, pure_bind]

theorem siteOfPush_ignoring (x : Exec α) :
    siteOfPush (ignoring x) = x >>= fun _ => siteOfPush (pure ()) := by
  simp only [siteOfPush, ignoring, bind_assoc, pure_bind]

/-- A body that resolves an operand and stores there. -/
theorem storesBy_resolved {f : Loc → Exec α} (hf : ∀ loc, StoresAt (siteOfLoc sz loc) (f loc)) :
    StoresBy (siteOfEa (pure ()) sz ea) (resolveEa sz ea >>= f) :=
  .after (storesAt_resolveEa sz ea) fun loc => (hf loc).storesBy

/-- The same after another part. -/
theorem StoresBy.ignoring {f : α → Exec β} (hx : StoresAt [] x)
    (hf : ∀ a, StoresBy (siteOfEa (pure ()) sz ea) (f a)) :
    StoresBy (siteOfEa (ignoring x) sz ea) (x >>= f) := by
  rw [siteOfEa_ignoring]
  exact .after hx hf

theorem StoresBy.pushing {f : α → Exec β} (hx : StoresAt [] x)
    (hf : ∀ a, StoresBy (siteOfPush (pure ())) (f a)) :
    StoresBy (siteOfPush (Machine.ignoring x)) (x >>= f) := by
  rw [siteOfPush_ignoring]
  exact .after hx hf

/-- The address of a place is found without a change of state (R200). -/
theorem StoresBy.addrOf {loc : Loc} {f : Long → Exec β} (hf : ∀ a, StoresBy g (f a)) :
    StoresBy g (addrOf loc >>= f) := by
  cases loc with
  | mem a => exact hf a
  | pcMem a => exact hf a
  | _ => exact fun _ _ _ e => (nomatch e)

theorem storesBy_modify {f : Long → Exec Long} (hf : ∀ d, FlagsOnly (f d)) :
    StoresBy (siteOfEa (pure ()) sz ea) (modify sz ea f) :=
  storesBy_resolved fun loc => (storesAt_readLoc sz loc).bind fun d => (hf d).storesAt.bind fun r =>
    storesAt_writeLoc sz loc r

/-- A store to the long below the stack pointer, which has been moved there. -/
theorem storesBy_below {f : Long → Exec α} (hf : ∀ sp, StoresAt [(.l, sp)] (f sp)) :
    StoresBy (siteOfPush (pure ())) (do
      update fun s => s.setActiveSp (s.activeSp - 4)
      let sp ← look State.activeSp
      f sp) := fun s a t e => by
  have he : f (s.setActiveSp (s.activeSp - 4)).activeSp (s.setActiveSp (s.activeSp - 4)) =
      .ok a t := e
  rw [State.activeSp_setActiveSp] at he
  exact (storesAt_setActiveSp (fun s => s.activeSp - 4) s () _ rfl).trans (hf _ _ a t he)

theorem storesBy_push (ph : Phase) (v : Long) : StoresBy (siteOfPush (pure ())) (push ph .l v) :=
  storesBy_below fun _ => storesAt_memWrite ph (.head _) v

theorem storesBy_callTo (target : Long) : StoresBy (siteOfPush (pure ())) (callTo target) :=
  .look fun _ => (storesBy_push _ _).bind fun _ => (storesAt_look _).bind fun sp =>
    (storesAt_calmly (calmly_hazardCheck target sp 4)).bind fun _ => storesAt_setPc _

/-! ### The place of a predecremented operand -/

theorem readA_of_flagsOnly (h : FlagsOnly x) (n : Reg) {r : α} (e : x s = .ok r t) :
    t.readA n = s.readA n := by
  obtain ⟨f, rfl⟩ := h s r t e
  have hS : (s.setFlags f).flagS = s.flagS := by
    rw [State.flagS_eq_system, State.flagS_eq_system]
    exact congrArg (BitVec.getLsbD · 8) (State.setCcr_system s _)
  simp only [State.readA, State.activeSp, hS]
  rfl

theorem readA_of_readPreDec {n : Reg} {r : Long} (e : readPreDec sz n s = .ok r t) :
    t.readA n = s.readA n - stepOf n sz := by
  have h : memRead .instruction sz ((s.writeA n (s.readA n - stepOf n sz)).readA n)
      (s.writeA n (s.readA n - stepOf n sz)) = .ok r t := e
  have hr : t.readA n = (s.writeA n (s.readA n - stepOf n sz)).readA n := by
    rw [((calmly_memRead (w := []) .instruction sz _ _).ok h).eq]
    rfl
  rw [hr, State.readA_writeA, if_pos rfl]

/-- A predecremented place that is read, then stored to through its register (R257, R264, R402). -/
theorem storesBy_preDec {n : Reg} {op : Long → Exec Long} {done : Done}
    (hop : ∀ d, FlagsOnly (op d)) : StoresBy (siteOfEa (pure ()) sz (.preDec n)) (do
      let d ← readPreDec sz n
      let r ← op d
      let a ← loadA n
      memWrite .instruction sz a r
      pure done) := fun s c u e => by
  obtain ⟨d, t1, e1, e⟩ := ok_of_bind e
  obtain ⟨r, t2, e2, e⟩ := ok_of_bind e
  obtain ⟨_, t3, e3, e⟩ := ok_of_bind (x := memWrite .instruction sz (t2.readA n) r) e
  cases e
  rw [readA_of_flagsOnly (hop d) n e2, readA_of_readPreDec e1] at e3
  exact ((storesAt_readPreDec sz n s d t1 e1).trans ((hop d).storesAt t1 r t2 e2)).trans
    (storesAt_memWrite _ (.head _) r t2 () _ e3)

end Sys2Proof.Machine
end

section
/-!
SUPPORT. Where each instruction stores: the bodies that store nothing, the bodies that store, and
`storing`, which ties every instruction's body to the places that `storeSites` computes.
-/

namespace Sys2Proof.Machine

variable {α β : Type} {s t u : State} {sz : Size} {ea : EA} {a v : Long} {i : Instr}
variable {l : List (Size × Long)} {x : Exec α}

theorem StoresAt.done (h : StoresAt l x) (c : β) : StoresAt l (x >>= fun _ => (pure c : Exec β)) :=
  h.bind fun _ => storesAt_pure c

/-- An operation on destination and source that changes condition codes alone. -/
def OpFlagsOnly (op : Size → Long → Long → Exec Long) : Prop := ∀ sz d s, FlagsOnly (op sz d s)

/-! ### Bodies that store nothing -/

theorem storesAt_toRegBody {op : Size → Long → Long → Exec Long} {x : Reg} {cost : Cost}
    (hop : OpFlagsOnly op) : StoresAt l (toRegBody op sz x ea cost) :=
  (storesAt_source sz ea).bind fun v => (storesAt_look _).bind fun d =>
    (hop sz d v).storesAt.bind fun _ => (storesAt_storeD sz x _).done _

theorem storesAt_extendedRegBody {op : Size → Long → Long → Exec Long} {x y : Reg}
    (hop : OpFlagsOnly op) : StoresAt l (extendedRegBody op sz x y) :=
  (storesAt_look _).bind fun v => (storesAt_look _).bind fun d =>
    (hop sz d v).storesAt.bind fun _ => (storesAt_storeD sz x _).done _

theorem storesAt_bcdRegBody {op : BcdOp} {x y : Reg} : StoresAt l (bcdRegBody op x y) :=
  (storesAt_look _).bind fun v => (storesAt_look _).bind fun d =>
    (flagsOnly_bcdOp op d v).storesAt.bind fun _ => (storesAt_storeD .b x _).done _

theorem storesAt_toAddrBody {op : Long → Long → Long} {x : Reg} :
    StoresAt l (toAddrBody op sz x ea) :=
  (storesAt_source sz ea).bind fun _ => (storesAt_look _).bind fun _ => (storesAt_storeA x _).done _

theorem storesAt_cmpBody {x : Reg} : StoresAt l (cmpBody sz x ea) :=
  (storesAt_source sz ea).bind fun v => (storesAt_look _).bind fun d =>
    (flagsOnly_cmpOp sz d v).storesAt.done _

theorem storesAt_cmpaBody {x : Reg} : StoresAt l (cmpaBody sz x ea) :=
  (storesAt_source sz ea).bind fun _ => (storesAt_look _).bind fun d =>
    (flagsOnly_cmpOp .l d _).storesAt.done _

theorem storesAt_shiftRegBody {op : ShiftOp} {xToC : Bool} {count : Count} {y : Reg} :
    StoresAt l (shiftRegBody op xToC count sz y) := by
  refine (storesAt_look _).bind fun n => (storesAt_look _).bind fun d =>
    (storesAt_look _).bind fun old => ?_
  split
  · exact (storesAt_look _).bind fun _ => (flagsOnly_setFlagsFrom _).storesAt.done _
  · exact (storesAt_storeD sz y _).bind fun _ => (flagsOnly_setFlagsFrom _).storesAt.done _

theorem storesAt_dynamicBit (x : Reg) : StoresAt l (dynamicBit x) := storesAt_look _

theorem storesAt_staticBit : StoresAt l staticBit := storesAt_immediate .b

theorem storesAt_bitTestBody {bitno : Exec Long} {cost : Cost} (hb : StoresAt l bitno) :
    StoresAt l (bitTestBody bitno ea cost) :=
  hb.bind fun _ => (storesAt_source _ ea).bind fun _ => (flagsOnly_setFlagsFrom _).storesAt.done _

theorem storesAt_branchBody {cost : Bool → Cost} {cond : Cond} {d8 : Byte} :
    StoresAt l (branchBody cost cond d8) := by
  refine (storesAt_look _).bind fun _ => (storesAt_branchDisp d8).bind fun _ =>
    (storesAt_look _).bind fun taken => ?_
  split
  · exact (storesAt_setPc _).done _
  · exact (storesAt_pure ()).done _

theorem storesAt_immCcrBody {op : BitVec 5 → BitVec 5 → BitVec 5} : StoresAt l (immCcrBody op) :=
  storesAt_fetchWord.bind fun _ => (storesAt_setCcr _).done _

theorem storesAt_immSrBody {op : Word → Word → Word} : StoresAt l (immSrBody op) :=
  storesAt_fetchWord.bind fun _ => (storesAt_setSr _).done _

theorem storesAt_moveaBody {x : Reg} : StoresAt l (moveaBody sz ea x) :=
  (storesAt_source sz ea).bind fun _ => (storesAt_storeA x _).done _

/-- Storing a result in a data register and setting the flags of a logical result. -/
theorem storesAt_storeLogic {x : Reg} {r : Size} {w : Long} {cost : Cost} :
    StoresAt l (do
      storeD sz x v
      setLogic r w
      pure (Done.completed cost)) :=
  (storesAt_storeD sz x v).bind fun _ => (flagsOnly_setLogic r w).storesAt.done _

theorem storesAt_zeroDivide (ea : EA) : StoresAt l (zeroDivide ea) :=
  storesAt_drawBit.bind fun _ => storesAt_drawBit.bind fun _ => storesAt_drawBit.bind fun _ =>
    (flagsOnly_setFlagsFrom _).storesAt.done _

theorem storesAt_divideResult (x : Reg) (result : Option (Word × Word)) :
    StoresAt l (divideResult x result) := by
  cases result with
  | none =>
    exact storesAt_drawBit.bind fun _ => storesAt_drawBit.bind fun _ =>
      (flagsOnly_setFlagsFrom _).storesAt
  | some p =>
    exact (storesAt_storeD .l x _).bind fun _ => (flagsOnly_setLogic .w _).storesAt

theorem storesAt_divide {x : Reg} {divisor : Word} {result : Long → Option (Word × Word)}
    {cost : Long → Cost} : StoresAt l (if divisor = 0 then zeroDivide ea
      else do
        let d ← loadD .l x
        divideResult x (result d)
        pure (Done.completed (cost d))) := by
  split
  · exact storesAt_zeroDivide ea
  · exact (storesAt_look _).bind fun _ => (storesAt_divideResult x _).done _

theorem storesAt_readAtLoc (loc : Loc) (sz : Size) (a : Long) : StoresAt l (readAtLoc loc sz a) :=
  storesAt_calmly (calmly_readAtLoc loc sz a)

theorem storesAt_writeR (r : Fin 16) (v : Long) : StoresAt l (update fun s => s.writeR r v) := by
  refine fun s _ _ e => ?_
  cases e
  unfold State.writeR
  split
  · exact .of_eq rfl rfl
  · exact .of_eq (s.writeA_mem _ v) (s.writeA_script _ v)

theorem storesAt_loadUp (mask : Word) (sz : Size) (loc : Loc) (is : List (Fin 16)) (a : Long) :
    StoresAt l (loadUp mask sz loc is a) := by
  induction is generalizing a with
  | nil => exact storesAt_pure a
  | cons r is ih =>
    unfold loadUp
    split
    · exact (storesAt_readAtLoc loc sz a).bind fun _ => (storesAt_writeR r _).bind fun _ => ih _
    · exact ih a

theorem storesAt_movemDummyRead (loc : Loc) (a : Long) : StoresAt l (movemDummyRead loc a) :=
  storesAt_calmly (calmly_movemDummyRead loc a)

theorem storesAt_movemLoadBody : StoresAt l (movemLoadBody sz ea) := by
  refine storesAt_fetchWord.bind fun mask => ?_
  split
  · exact (storesAt_look _).bind fun _ => (storesAt_loadUp mask sz _ _ _).bind fun a =>
      (storesAt_movemDummyRead _ a).bind fun _ => (storesAt_storeA _ a).done _
  · exact (storesAt_resolveEa sz ea).bind fun loc => (storesAt_addrOf loc).bind fun _ =>
      (storesAt_loadUp mask sz loc _ _).bind fun a => (storesAt_movemDummyRead loc a).done _

theorem storesAt_movepAddr (y : Reg) : StoresAt l (movepAddr y) :=
  storesAt_calmly (calmly_movepAddr y)

theorem storesAt_movepLoad {x y : Reg} {k : Nat} {cost : Cost} :
    StoresAt l (do
      let a ← movepAddr y
      let v ← readAlternate k a 0
      storeD sz x v
      pure (Done.completed cost)) :=
  (storesAt_movepAddr y).bind fun a => (storesAt_calmly (calmly_readAlternate k a 0)).bind fun v =>
    (storesAt_storeD sz x v).done _

theorem storesAt_returnFromException : StoresAt l returnFromException :=
  (storesAt_pop _ .w).bind fun _ => (storesAt_pop _ .l).bind fun _ =>
    storesAt_update (fun _ => rfl) fun _ => rfl

/-! ### Bodies that store -/

theorem storesBy_modifyDone {f : Long → Exec Long} {done : Done} (hf : ∀ d, FlagsOnly (f d)) :
    StoresBy (siteOfEa (pure ()) sz ea) (do
      modify sz ea f
      pure done) :=
  (storesBy_modify hf).bind fun _ => storesAt_pure _

theorem storesBy_toMemBody {op : Size → Long → Long → Exec Long} {x : Reg} {cost : Cost}
    (hop : OpFlagsOnly op) : StoresBy (siteOfEa (pure ()) sz ea) (toMemBody op sz x ea cost) :=
  storesBy_modifyDone fun d => .look fun v => hop sz d v

theorem storesBy_immBody {op : Size → Long → Long → Exec Long} {cost : Cost}
    (hop : OpFlagsOnly op) :
    StoresBy (siteOfEa (ignoring (immediate sz)) sz ea) (immBody op sz ea cost) :=
  .ignoring (storesAt_immediate sz) fun v => storesBy_modifyDone fun d => hop sz d v

theorem storesBy_quickBody {op : Size → Long → Long → Exec Long} {addrOp : Long → Long → Long}
    {q : Reg} (hop : OpFlagsOnly op) :
    StoresBy (siteOfEa (pure ()) sz ea) (quickBody op addrOp q sz ea) := by
  cases ea with
  | areg n =>
    exact StoresAt.storesBy (l := []) ((storesAt_look _).bind fun _ => (storesAt_storeA n _).done _)
  | _ => exact storesBy_modifyDone fun d => hop sz d _

theorem storesBy_shiftMemBody {op : ShiftOp} :
    StoresBy (siteOfEa (pure ()) .w ea) (shiftMemBody op ea) :=
  storesBy_modifyDone fun _ => .look fun _ => (flagsOnly_setFlagsFrom _).bind_pure _

theorem storesBy_bitChange {op : BitOp} {b : Long} {done : Done} :
    StoresBy (siteOfEa (pure ()) (bitSize ea) ea) (do
      modify (bitSize ea) ea fun v => do
        setZFromBit v (bitIndex (bitSize ea) b)
        pure (op v (bitIndex (bitSize ea) b))
      pure done) :=
  storesBy_modifyDone fun _ => (flagsOnly_setFlagsFrom _).bind_pure _

theorem storesBy_bitChangeBody_dynamic {op : BitOp} {x : Reg} {cost : Cost} :
    StoresBy (siteOfEa (pure ()) (bitSize ea) ea) (bitChangeBody op (dynamicBit x) ea cost) :=
  .look fun _ => storesBy_bitChange

theorem storesBy_bitChangeBody_static {op : BitOp} {cost : Cost} :
    StoresBy (siteOfEa (ignoring staticBit) (bitSize ea) ea)
      (bitChangeBody op staticBit ea cost) :=
  .ignoring storesAt_staticBit fun _ => storesBy_bitChange

theorem storesBy_extendedMemBody {op : Size → Long → Long → Exec Long} {x y : Reg}
    (hop : OpFlagsOnly op) : StoresBy (siteOfEa (ignoring (readPreDec sz y)) sz (.preDec x))
      (extendedMemBody op sz x y) :=
  .ignoring (storesAt_readPreDec sz y) fun v => storesBy_preDec fun d => hop sz d v

theorem storesBy_bcdMemBody {op : BcdOp} {x y : Reg} :
    StoresBy (siteOfEa (ignoring (readPreDec .b y)) .b (.preDec x)) (bcdMemBody op x y) :=
  .ignoring (storesAt_readPreDec .b y) fun v => storesBy_preDec fun d => flagsOnly_bcdOp op d v

theorem storesBy_moveBody {src dst : EA} :
    StoresBy (siteOfEa (ignoring (source sz src)) sz dst) (moveBody sz src dst) :=
  .ignoring (storesAt_source sz src) fun v => storesBy_resolved fun loc =>
    (storesAt_writeLoc sz loc v).bind fun _ => (flagsOnly_setLogic sz v).storesAt.done _

/-! ### MOVEM and MOVEP to memory (R204, R207) -/

/-- How many registers of a list are in a mask. -/
def listed (mask : Word) (is : List (Fin 16)) : Nat := is.countP fun i => mask.getLsbD i.val

theorem listed_of_mem {mask : Word} {i : Fin 16} (h : mask.getLsbD i.val = true)
    (is : List (Fin 16)) : listed mask (i :: is) = listed mask is + 1 :=
  List.countP_cons_of_pos (p := fun i : Fin 16 => mask.getLsbD i.val) h

theorem listed_of_not_mem {mask : Word} {i : Fin 16} (h : ¬mask.getLsbD i.val = true)
    (is : List (Fin 16)) : listed mask (i :: is) = listed mask is :=
  List.countP_cons_of_neg (p := fun i : Fin 16 => mask.getLsbD i.val) h

theorem listed_maskOrder (mask : Word) : listed mask maskOrder = maskCount mask := by
  rw [maskCount, onesOf, show List.range 16 = maskOrder.map Fin.val from rfl, List.countP_map]
  rfl

theorem storesAt_storeDown {mask : Word} {is : List (Fin 16)}
    (h : ∀ k < listed mask is,
      (sz, a - BitVec.ofNat 32 ((k + 1) * bytesOf sz)) ∈ l) :
    StoresAt l (storeDown mask sz is a) := by
  induction is generalizing a with
  | nil => exact storesAt_pure a
  | cons i is ih =>
    unfold storeDown
    split
    · next hi =>
      rw [listed_of_mem hi] at h
      have first := h 0 (Nat.succ_pos _)
      rw [Nat.zero_add, Nat.one_mul] at first
      refine (storesAt_look _).bind fun _ => (storesAt_memWrite _ first _).bind fun _ =>
        ih fun k hk => ?_
      have later := h (k + 1) (Nat.succ_lt_succ hk)
      rwa [Nat.add_mul (k + 1) 1, Nat.one_mul, Nat.add_comm, BitVec.ofNat_add, ← sub_sub] at later
    · next hi => exact ih (listed_of_not_mem hi _ ▸ h)

theorem storesAt_storeUp {mask : Word} {is : List (Fin 16)}
    (h : ∀ k < listed mask is, (sz, elementAddr sz a k) ∈ l) :
    StoresAt l (storeUp mask sz is a) := by
  induction is generalizing a with
  | nil => exact storesAt_pure a
  | cons i is ih =>
    unfold storeUp
    split
    · next hi =>
      rw [listed_of_mem hi] at h
      have first := h 0 (Nat.succ_pos _)
      rw [elementAddr, Nat.zero_mul, BitVec.add_zero] at first
      refine (storesAt_look _).bind fun _ => (storesAt_memWrite _ first _).bind fun _ =>
        ih fun k hk => ?_
      have later := h (k + 1) (Nat.succ_lt_succ hk)
      rwa [elementAddr, Nat.add_mul, Nat.one_mul, Nat.add_comm, BitVec.ofNat_add,
        ← BitVec.add_assoc] at later
    · next hi => exact ih (listed_of_not_mem hi _ ▸ h)

theorem mem_places (p : Nat → Size × Long) {n k : Nat} (hk : k < n) :
    p k ∈ (List.range n).map p := List.mem_map_of_mem (List.mem_range.2 hk)

theorem storesBy_movemStoreBody : StoresBy (sitesOfMovem sz ea) (movemStoreBody sz ea) := by
  refine .after storesAt_fetchWord fun mask => ?_
  have down (start : Long) := storesAt_storeDown (mask := mask) (is := maskOrder) (a := start)
    fun k hk => mem_places (fun k => (sz, start - BitVec.ofNat 32 ((k + 1) * bytesOf sz)))
      (listed_maskOrder mask ▸ hk)
  have up (start : Long) := storesAt_storeUp (mask := mask) (is := maskOrder) (a := start)
    fun k hk => mem_places (fun k => (sz, elementAddr sz start k)) (listed_maskOrder mask ▸ hk)
  cases ea with
  | preDec r =>
    exact .after (storesAt_look _) fun start => StoresAt.storesBy <|
      (down start).bind fun a => (storesAt_storeA r a).done _
  | _ =>
    exact .after (storesAt_resolveEa sz _) fun loc => .after (storesAt_addrOf loc) fun start =>
      StoresAt.storesBy <| (up start).bind fun _ => (storesAt_pure ()).done _

theorem storesAt_writeAlternate {k : Nat} (h : ∀ j < k, (.b, alternateAddr a j) ∈ l) (v : Long) :
    StoresAt l (writeAlternate k a v) := by
  induction k generalizing a with
  | zero => exact storesAt_pure ()
  | succ k ih =>
    have first := h 0 (Nat.succ_pos _)
    rw [alternateAddr, Nat.mul_zero, BitVec.add_zero] at first
    refine (storesAt_memWrite _ first _).bind fun _ => ih fun j hj => ?_
    have later := h (j + 1) (Nat.succ_lt_succ hj)
    rwa [alternateAddr, Nat.mul_add, Nat.add_comm, BitVec.ofNat_add, ← BitVec.add_assoc] at later

theorem storesBy_movepStore {x y : Reg} {k : Nat} {cost : Cost} :
    StoresBy (sitesOfMovep k y) (do
      let a ← movepAddr y
      let v ← loadD .l x
      writeAlternate k a v
      pure (Done.completed cost)) :=
  .after (storesAt_movepAddr y) fun a => StoresAt.storesBy <| (storesAt_look _).bind fun v =>
    (storesAt_writeAlternate (fun _ => mem_places fun k => (.b, alternateAddr a k)) v).done _

/-! ### The instructions -/

/-- How the meaning of an instruction stores. -/
inductive Storing (i : Instr) : Prop
  | stores {body : Exec Done} {g : Exec (List (Size × Long))} (he : ∀ s, exec i s = perform body s)
      (hg : ∀ s, storeSites i s = sitesOf g s) (hb : StoresBy g body) : Storing i
  | reads {body : Exec Done} (he : ∀ s, exec i s = perform body s) (hb : StoresAt [] body) :
      Storing i
  | privileged {body : Exec Done} (he : ∀ s, exec i s = Machine.privileged body s)
      (hb : StoresAt [] body) : Storing i
  | illegal {v : Byte} (he : ∀ s, exec i s = illegalException v s) : Storing i

/-- The same, with the equations of the dispatch left to `rfl`. -/
theorem Storing.of {body : Exec Done} {g : Exec (List (Size × Long))} (hb : StoresBy g body)
    (he : ∀ s, exec i s = perform body s := by exact fun _ => rfl)
    (hg : ∀ s, storeSites i s = sitesOf g s := by exact fun _ => rfl) : Storing i :=
  .stores he hg hb

theorem Storing.none {body : Exec Done} (hb : StoresAt [] body)
    (he : ∀ s, exec i s = perform body s := by exact fun _ => rfl) : Storing i := .reads he hb

theorem Storing.supervisor {body : Exec Done} (hb : StoresAt [] body)
    (he : ∀ s, exec i s = Machine.privileged body s := by exact fun _ => rfl) : Storing i :=
  .privileged he hb

/-- CLR, Scc and MOVE from SR store without the operand read, but for the read of R125. -/
theorem storing_clr (sz : Size) (ea : EA) : Storing (.clr sz ea) :=
  .of <| storesBy_resolved fun loc => (storesAt_dummyRead sz loc).bind fun _ =>
    (storesAt_writeLoc sz loc 0).bind fun _ => (flagsOnly_setLogic sz 0).storesAt.done _

theorem storing_scc (cond : Cond) (ea : EA) : Storing (.scc cond ea) :=
  .of <| storesBy_resolved fun loc => (storesAt_dummyRead .b loc).bind fun _ =>
    (storesAt_look _).bind fun _ => (storesAt_writeLoc .b loc _).done _

theorem storing_moveFromSr (ea : EA) : Storing (.moveFromSr ea) :=
  .of <| storesBy_resolved fun loc => (storesAt_dummyRead .w loc).bind fun _ =>
    (storesAt_look _).bind fun _ => (storesAt_writeLoc .w loc _).done _

theorem storing_tas (ea : EA) : Storing (.tas ea) := by
  refine .of <| storesBy_resolved fun loc => (storesAt_readLoc .b loc).bind fun v =>
    (flagsOnly_setLogic .b v).storesAt.bind fun _ => ?_
  split
  · next n => exact (storesAt_storeD .b n _).done _
  · refine (storesAt_look _).bind fun h => (storesAt_callHandler _ _ _).bind fun allow => ?_
    split
    · exact (storesAt_writeLoc .b _ _).done _
    · exact (storesAt_pure ()).done _

/-! ### Stores to the stack -/

theorem storing_pea (ea : EA) : Storing (.pea ea) :=
  .of <| .pushing (storesAt_resolveEa .l ea) fun _ => .addrOf fun a =>
    (storesBy_push _ a).bind fun _ => storesAt_pure _

theorem storing_jsr (ea : EA) : Storing (.jsr ea) :=
  .of <| .pushing (storesAt_resolveEa .l ea) fun _ => .addrOf fun a =>
    (storesBy_callTo a).bind fun _ => storesAt_pure _

theorem storing_bsr (d8 : Byte) : Storing (.bsr d8) :=
  .of <| .look fun _ => .pushing (storesAt_branchDisp d8) fun _ =>
    (storesBy_callTo _).bind fun _ => storesAt_pure _

theorem storing_link (y : Reg) : Storing (.link y) :=
  .of <| .pushing storesAt_fetchDisp fun d => storesBy_below (f := fun sp => do
      let frame ← loadA y
      memWrite .instruction .l sp frame
      storeA y sp
      update fun s => s.setActiveSp (s.activeSp + d)
      pure (Done.completed (·.misc.link)))
    fun sp => (storesAt_look _).bind fun _ => (storesAt_memWrite _ (.head _) _).bind fun _ =>
      (storesAt_storeA y sp).bind fun _ => (storesAt_setActiveSp _).done _

/-! ### Instructions that store nothing -/

theorem storing_chk (x : Reg) (ea : EA) : Storing (.chk x ea) := by
  refine .none <| (storesAt_source .w ea).bind fun _ => (storesAt_look _).bind fun _ =>
    storesAt_drawBit.bind fun _ => storesAt_drawBit.bind fun _ => storesAt_drawBit.bind fun _ => ?_
  split
  · exact (flagsOnly_setFlagsFrom _).storesAt.done _
  · split
    · exact (flagsOnly_setFlagsFrom _).storesAt.done _
    · exact storesAt_drawBit.bind fun _ => (flagsOnly_setFlagsFrom _).storesAt.done _

theorem storing_dbcc (cond : Cond) (y : Reg) : Storing (.dbcc cond y) := by
  refine .none <| (storesAt_look _).bind fun _ => storesAt_fetchDisp.bind fun _ =>
    (storesAt_look _).bind fun stay => ?_
  split
  · exact storesAt_pure _
  · refine (storesAt_look _).bind fun _ => (storesAt_storeD .w y _).bind fun _ => ?_
    split
    · exact (storesAt_setPc _).done _
    · exact storesAt_pure _

theorem storing_unlk (y : Reg) : Storing (.unlk y) := by
  refine .none <| (storesAt_look _).bind fun _ => (storesAt_setActiveSp _).bind fun _ =>
    (storesAt_pop _ .l).bind fun _ => ?_
  split
  · exact storesAt_drawBit.bind fun _ => (storesAt_storeA y _).done _
  · exact (storesAt_storeA y _).done _

theorem storing_trapv : Storing .trapv := by
  refine .none <| (storesAt_look _).bind fun v => ?_
  split
  · exact storesAt_pure _
  · exact storesAt_pure _

theorem storing_exgDD (x y : Reg) : Storing (.exgDD x y) := by
  refine .reads (fun _ => by rw [exec, execExgDD]) ?_
  exact (storesAt_look _).bind fun _ => (storesAt_look _).bind fun _ =>
    (storesAt_storeD .l x _).bind fun _ => (storesAt_storeD .l y _).done _

theorem storing_exgAA (x y : Reg) : Storing (.exgAA x y) := by
  refine .reads (fun _ => by rw [exec, execExgAA]) ?_
  exact (storesAt_look _).bind fun _ => (storesAt_look _).bind fun _ =>
    (storesAt_storeA x _).bind fun _ => (storesAt_storeA y _).done _

theorem storing_exgDA (x y : Reg) : Storing (.exgDA x y) := by
  refine .reads (fun _ => by rw [exec, execExgDA]) ?_
  exact (storesAt_look _).bind fun _ => (storesAt_look _).bind fun _ =>
    (storesAt_storeD .l x _).bind fun _ => (storesAt_storeA y _).done _

theorem storing_swap (y : Reg) : Storing (.swap y) := by
  refine .reads (fun _ => by rw [exec, execSwap]) ?_
  exact (storesAt_look _).bind fun _ => storesAt_storeLogic

theorem storing_extW (y : Reg) : Storing (.extW y) := by
  refine .reads (fun _ => by rw [exec, execExtW]) ?_
  exact (storesAt_look _).bind fun _ => storesAt_storeLogic

theorem storing_extL (y : Reg) : Storing (.extL y) := by
  refine .reads (fun _ => by rw [exec, execExtL]) ?_
  exact (storesAt_look _).bind fun _ => storesAt_storeLogic

theorem storing_rtr : Storing .rtr :=
  .none <| (storesAt_pop _ .w).bind fun _ => (storesAt_setCcr _).bind fun _ =>
    (storesAt_pop _ .l).bind fun _ => (storesAt_setPc _).done _

theorem storing_cmpm (x : Reg) (sz : Size) (y : Reg) : Storing (.cmpm x sz y) :=
  .none <| (storesAt_readPostInc sz y).bind fun v => (storesAt_readPostInc sz x).bind fun d =>
    (flagsOnly_cmpOp sz d v).storesAt.done _

theorem storing_cmpi (sz : Size) (ea : EA) : Storing (.cmpi sz ea) :=
  .none <| (storesAt_immediate sz).bind fun v => (storesAt_source sz ea).bind fun d =>
    (flagsOnly_cmpOp sz d v).storesAt.done _

theorem storing_lea (x : Reg) (ea : EA) : Storing (.lea x ea) :=
  .none <| (storesAt_resolveEa .l ea).bind fun loc => (storesAt_addrOf loc).bind fun a =>
    (storesAt_storeA x a).done _

theorem storing_jmp (ea : EA) : Storing (.jmp ea) :=
  .none <| (storesAt_resolveEa .l ea).bind fun loc => (storesAt_addrOf loc).bind fun _ =>
    (storesAt_setPc _).done _

/-- Every instruction stores where `storeSites` says, or takes an exception. -/
theorem storing (i : Instr) : Storing i :=
  match i with
  | .moveB _ _ | .moveW _ _ | .moveL _ _ => .of storesBy_moveBody
  | .moveaW _ _ | .moveaL _ _ => .none storesAt_moveaBody
  | .movemWR2M _ | .movemLR2M _ => .of storesBy_movemStoreBody
  | .movemWM2R _ | .movemLM2R _ => .none storesAt_movemLoadBody
  | .movepWR2M _ _ | .movepLR2M _ _ => .of storesBy_movepStore
  | .movepWM2R _ _ | .movepLM2R _ _ => .none storesAt_movepLoad
  | .addEaDB _ _ | .addEaDWL _ _ _ => .none (storesAt_toRegBody flagsOnly_addOp)
  | .subEaDB _ _ | .subEaDWL _ _ _ => .none (storesAt_toRegBody flagsOnly_subOp)
  | .andEaD _ _ _ | .orEaD _ _ _ => .none (storesAt_toRegBody fun sz _ _ => flagsOnly_logicOp sz _)
  | .addDEa _ _ _ => .of (storesBy_toMemBody flagsOnly_addOp)
  | .subDEa _ _ _ => .of (storesBy_toMemBody flagsOnly_subOp)
  | .andDEa _ _ _ | .orDEa _ _ _ | .eor _ _ _ =>
    .of (storesBy_toMemBody fun sz _ _ => flagsOnly_logicOp sz _)
  | .addi _ _ => .of (storesBy_immBody flagsOnly_addOp)
  | .subi _ _ => .of (storesBy_immBody flagsOnly_subOp)
  | .andi _ _ | .ori _ _ | .eori _ _ => .of (storesBy_immBody fun sz _ _ => flagsOnly_logicOp sz _)
  | .addqB _ _ | .addqWL _ _ _ => .of (storesBy_quickBody flagsOnly_addOp)
  | .subqB _ _ | .subqWL _ _ _ => .of (storesBy_quickBody flagsOnly_subOp)
  | .addaW _ _ | .addaL _ _ | .subaW _ _ | .subaL _ _ => .none storesAt_toAddrBody
  | .addxR _ _ _ => .none (storesAt_extendedRegBody flagsOnly_addXOp)
  | .subxR _ _ _ => .none (storesAt_extendedRegBody flagsOnly_subXOp)
  | .addxM _ _ _ => .of (storesBy_extendedMemBody flagsOnly_addXOp)
  | .subxM _ _ _ => .of (storesBy_extendedMemBody flagsOnly_subXOp)
  | .cmpB _ _ | .cmpWL _ _ _ => .none storesAt_cmpBody
  | .cmpaW _ _ | .cmpaL _ _ => .none storesAt_cmpaBody
  | .abcdR _ _ | .sbcdR _ _ => .none storesAt_bcdRegBody
  | .abcdM _ _ | .sbcdM _ _ => .of storesBy_bcdMemBody
  | .asrR _ _ _ | .aslR _ _ _ | .lsrR _ _ _ | .lslR _ _ _ | .roxrR _ _ _ | .roxlR _ _ _
  | .rorR _ _ _ | .rolR _ _ _ => .none storesAt_shiftRegBody
  | .asrM _ | .aslM _ | .lsrM _ | .lslM _ | .roxrM _ | .roxlM _ | .rorM _ | .rolM _ =>
    .of storesBy_shiftMemBody
  | .btstD x _ => .none (storesAt_bitTestBody (storesAt_dynamicBit x))
  | .btstS _ => .none (storesAt_bitTestBody storesAt_staticBit)
  | .bchgD _ _ | .bclrD _ _ | .bsetD _ _ => .of storesBy_bitChangeBody_dynamic
  | .bchgS _ | .bclrS _ | .bsetS _ => .of storesBy_bitChangeBody_static
  | .bcc _ _ | .bra _ => .none storesAt_branchBody
  | .andiCcr | .oriCcr | .eoriCcr => .none storesAt_immCcrBody
  | .andiSr | .oriSr | .eoriSr => .supervisor storesAt_immSrBody
  | .illegal | .lineA _ | .lineF _ => .illegal fun _ => rfl
  | .neg _ _ => .of (storesBy_modifyDone fun d => flagsOnly_subOp _ 0 d)
  | .negx _ _ => .of (storesBy_modifyDone fun d => flagsOnly_subXOp _ 0 d)
  | .notEa _ _ => .of (storesBy_modifyDone fun _ => flagsOnly_logicOp _ _)
  | .nbcd _ => .of (storesBy_modifyDone fun d => flagsOnly_bcdOp .nbcd d 0)
  | .clr sz ea => storing_clr sz ea
  | .scc cond ea => storing_scc cond ea
  | .moveFromSr ea => storing_moveFromSr ea
  | .tas ea => storing_tas ea
  | .pea ea => storing_pea ea
  | .jsr ea => storing_jsr ea
  | .bsr d8 => storing_bsr d8
  | .link y => storing_link y
  | .cmpi sz ea => storing_cmpi sz ea
  | .cmpm x sz y => storing_cmpm x sz y
  | .tst sz ea => .none <| (storesAt_source sz ea).bind fun v =>
    (flagsOnly_setLogic sz v).storesAt.done _
  | .swap y => storing_swap y
  | .extW y => storing_extW y
  | .extL y => storing_extL y
  | .moveq _ _ => .none storesAt_storeLogic
  | .mulu _ ea | .muls _ ea => .none <| (storesAt_source .w ea).bind fun _ =>
    (storesAt_look _).bind fun _ => storesAt_storeLogic
  | .divu _ ea | .divs _ ea => .none <| (storesAt_source .w ea).bind fun _ => storesAt_divide
  | .chk x ea => storing_chk x ea
  | .lea x ea => storing_lea x ea
  | .jmp ea => storing_jmp ea
  | .dbcc cond y => storing_dbcc cond y
  | .unlk y => storing_unlk y
  | .exgDD x y => storing_exgDD x y
  | .exgAA x y => storing_exgAA x y
  | .exgDA x y => storing_exgDA x y
  | .moveToCcr ea => .none <| (storesAt_source .w ea).bind fun _ => (storesAt_setCcr _).done _
  | .rts => .none <| (storesAt_pop _ .l).bind fun _ => (storesAt_setPc _).done _
  | .rtr => storing_rtr
  | .trapv => storing_trapv
  | .nop => .reads (fun _ => by rw [exec, execNop]) (storesAt_pure _)
  | .trap _ => .reads (fun _ => by rw [exec, execTrap]) (storesAt_pure _)
  | .moveToSr ea => .supervisor <| (storesAt_source .w ea).bind fun _ => (storesAt_setSr _).done _
  | .moveToUsp y => .supervisor <|
    (storesAt_update (h := fun s => { s with usp := s.readA y }) (fun _ => rfl) fun _ => rfl).done _
  | .moveFromUsp y => .supervisor <| (storesAt_writeA y _).done _
  | .rte => .supervisor <| storesAt_returnFromException.done _
  | .reset => .supervisor <| (storesAt_look _).bind fun _ => (storesAt_callHandler _ _ _).done _
  | .stop => .supervisor <| storesAt_fetchWord.bind fun w =>
    (storesAt_update (h := fun s => { s.setSr w with stopped := true }) (fun _ => rfl)
      fun _ => rfl).done _

/-! ### The obligation -/

/-- A meaning that ended completed is its body, completed. -/
theorem completed_of_perform {body : Exec Done} (h : perform body s = .next t)
    (hc : t.lastEnd = .completed) :
    ∃ cost u, body s = .ok (.completed cost) u ∧ t = completes cost u := by
  rcases next_of_perform h with h | ⟨v, cost, u, -, k⟩ | ⟨u, -, k⟩
  · exact h
  · rcases (takeException_next k).2 with he | he <;> rw [he] at hc <;> cases hc
  · rw [(addressError_next k).2.2] at hc
    cases hc

theorem storedIn_of_perform {body : Exec Done} (h : perform body s = .next t)
    (hc : t.lastEnd = .completed) (hb : ∀ d u, body s = .ok d u → StoredIn l s u) :
    StoredIn l s t := by
  obtain ⟨cost, u, e, rfl⟩ := completed_of_perform h hc
  exact (hb _ u e).trans (.of_eq rfl rfl)

/-- A completed instruction stores nowhere but where `storeSites` says. -/
theorem storedIn_storeSites (h : exec i s = .next t) (hc : t.lastEnd = .completed) :
    StoredIn (storeSites i s) s t := by
  cases storing i with
  | stores he hg hb =>
    rw [hg]
    exact storedIn_of_perform (he s ▸ h) hc (hb s)
  | reads he hb => exact (storedIn_of_perform (he s ▸ h) hc (hb s)).of_nil
  | privileged he hb =>
    rw [he] at h
    cases hS : s.flagS with
    | true =>
      rw [privileged_supervisor _ hS] at h
      exact (storedIn_of_perform h hc (hb s)).of_nil
    | false =>
      rw [privileged_user _ hS] at h
      exact absurd hc (decodeTimeException_next h).2
  | illegal he =>
    rw [he] at h
    exact absurd hc (decodeTimeException_next h).2

/-- Settles O58, by `storing`: the places are computed by the part of the body before the store. -/
theorem memoryFrame : Obligations.MemoryFrame := by
  unfold Obligations.MemoryFrame
  exact fun s t i hs h hc b hb => (storedIn_storeSites h hc hs).2 b hb

end Sys2Proof.Machine
end

section
/-!
SUPPORT. Opcode words by their fields (R151, R152): `opWord` packs the line, the fields 11:9 and 8:6
and the two halves of the EA field, `byteWord` and `restWord` the line, what stands before the low
byte, and the low byte or the low twelve bits. What the decoder reads of such a word is the field,
and each piece the encoder places is such a word, so decoder and encoder meet in the fields.
-/

namespace Sys2Proof

/-- The opcode word with these fields: the line 15:12, 11:9, 8:6, the EA mode 5:3 and the EA
register 2:0. -/
def opWord (line : BitVec 4) (x op mode reg : BitVec 3) : Word := line ++ x ++ op ++ mode ++ reg

/-- The opcode word with these fields: the line 15:12, 11:8 and the low byte. -/
def byteWord (line cond : BitVec 4) (low : Byte) : Word :=
  line.setWidth 16 <<< 12 ||| cond.setWidth 16 <<< 8 ||| low.setWidth 16

/-- The opcode word with this line and these bits 11:0. -/
def restWord (line : BitVec 4) (rest : BitVec 12) : Word :=
  line.setWidth 16 <<< 12 ||| rest.setWidth 16

/-! ### The fields of a packed word -/

theorem toNat_append_add {m n : Nat} (a : BitVec m) (b : BitVec n) :
    (a ++ b).toNat = a.toNat * 2 ^ n + b.toNat := by
  rw [BitVec.toNat_append, ← Nat.shiftLeft_add_eq_or_of_lt b.isLt, Nat.shiftLeft_eq]

theorem toNat_slice (w : Word) (lo n : Nat) :
    (w.extractLsb' lo n).toNat = w.toNat / 2 ^ lo % 2 ^ n := by
  rw [BitVec.extractLsb'_toNat, Nat.shiftRight_eq_div_pow]

theorem slice_eq {w : Word} {lo n : Nat} {v : BitVec n} (h : w.toNat / 2 ^ lo % 2 ^ n = v.toNat) :
    w.extractLsb' lo n = v :=
  BitVec.eq_of_toNat_eq ((toNat_slice w lo n).trans h)

section
variable (l : BitVec 4) (x o m r : BitVec 3)

theorem toNat_opWord : (opWord l x o m r).toNat =
    4096 * l.toNat + 512 * x.toNat + 64 * o.toNat + 8 * m.toNat + r.toNat := by
  have h : (opWord l x o m r).toNat = (l ++ x ++ o ++ m ++ r).toNat := rfl
  simp only [h, toNat_append_add]
  omega

theorem opWord_line : (opWord l x o m r).extractLsb' 12 4 = l :=
  slice_eq (by rw [toNat_opWord]; omega)

theorem opWord_slice9 : (opWord l x o m r).extractLsb' 9 3 = x :=
  slice_eq (by rw [toNat_opWord]; omega)

theorem opWord_slice6 : (opWord l x o m r).extractLsb' 6 3 = o :=
  slice_eq (by rw [toNat_opWord]; omega)

theorem opWord_slice3 : (opWord l x o m r).extractLsb' 3 3 = m :=
  slice_eq (by rw [toNat_opWord]; omega)

theorem opWord_slice0 : (opWord l x o m r).extractLsb' 0 3 = r :=
  slice_eq (by rw [toNat_opWord]; omega)

/-- Every word is the one with its own fields. -/
theorem opWord_slices (w : Word) : opWord (w.extractLsb' 12 4) (w.extractLsb' 9 3)
    (w.extractLsb' 6 3) (w.extractLsb' 3 3) (w.extractLsb' 0 3) = w := by
  apply BitVec.eq_of_toNat_eq
  simp only [toNat_opWord, toNat_slice]
  omega

@[simp] theorem opWord_inj {l' : BitVec 4} {x' o' m' r' : BitVec 3} :
    opWord l x o m r = opWord l' x' o' m' r' ↔ l = l' ∧ x = x' ∧ o = o' ∧ m = m' ∧ r = r' := by
  simp only [BitVec.toNat_eq, toNat_opWord]
  omega

/-! ### What the decoder reads of a packed word -/

@[simp] theorem regAt_opWord_9 : regAt (opWord l x o m r) 9 = x.toFin := by
  rw [regAt, opWord_slice9]

@[simp] theorem regAt_opWord_0 : regAt (opWord l x o m r) 0 = r.toFin := by
  rw [regAt, opWord_slice0]

@[simp] theorem threeBits_opWord_9 : threeBits (opWord l x o m r) 9 = x.toNat := by
  rw [threeBits, opWord_slice9]

@[simp] theorem threeBits_opWord_6 : threeBits (opWord l x o m r) 6 = o.toNat := by
  rw [threeBits, opWord_slice6]

@[simp] theorem threeBits_opWord_3 : threeBits (opWord l x o m r) 3 = m.toNat := by
  rw [threeBits, opWord_slice3]

@[simp] theorem threeBits_opWord_0 : threeBits (opWord l x o m r) 0 = r.toNat := by
  rw [threeBits, opWord_slice0]

@[simp] theorem twoBits_opWord_9 : twoBits (opWord l x o m r) 9 = x.toNat % 4 := by
  rw [twoBits, toNat_slice, toNat_opWord]
  omega

@[simp] theorem twoBits_opWord_6 : twoBits (opWord l x o m r) 6 = o.toNat % 4 := by
  rw [twoBits, toNat_slice, toNat_opWord]
  omega

@[simp] theorem twoBits_opWord_3 : twoBits (opWord l x o m r) 3 = m.toNat % 4 := by
  rw [twoBits, toNat_slice, toNat_opWord]
  omega

theorem getElem_of_slice {w : Word} {lo : Nat} {v : BitVec 3} (h : w.extractLsb' lo 3 = v)
    (hlo : lo + 2 < 16) : w[lo + 2] = v[2] := by
  simp [← h, hlo]

@[simp] theorem opWord_bit11 : (opWord l x o m r)[11] = x[2] :=
  getElem_of_slice (opWord_slice9 l x o m r) (by decide)

@[simp] theorem opWord_bit8 : (opWord l x o m r)[8] = o[2] :=
  getElem_of_slice (opWord_slice6 l x o m r) (by decide)

@[simp] theorem opWord_bit5 : (opWord l x o m r)[5] = m[2] :=
  getElem_of_slice (opWord_slice3 l x o m r) (by decide)

/-! The slices the decoder reads across fields, in the form `simp` leaves `BitVec.extractLsb'`. -/

@[simp] theorem opWord_lineBits : (opWord l x o m r).toNat >>> 12 % 16 = l.toNat := by
  rw [toNat_opWord, Nat.shiftRight_eq_div_pow]
  omega

@[simp] theorem opWord_condBits :
    (opWord l x o m r).toNat >>> 8 % 16 = 2 * x.toNat + o.toNat / 4 := by
  rw [toNat_opWord, Nat.shiftRight_eq_div_pow]
  omega

@[simp] theorem opWord_fourBits :
    (opWord l x o m r).toNat >>> 3 % 16 = 8 * (o.toNat % 2) + m.toNat := by
  rw [toNat_opWord, Nat.shiftRight_eq_div_pow]
  omega

@[simp] theorem opWord_sixBits : (opWord l x o m r).toNat >>> 3 % 64 = 8 * o.toNat + m.toNat := by
  rw [toNat_opWord, Nat.shiftRight_eq_div_pow]
  omega

/-! ### The pieces of the encoder as packed words -/

theorem ofNat_opWord (n : Nat) : BitVec.ofNat 16 n = opWord (BitVec.ofNat 4 (n / 4096))
    (BitVec.ofNat 3 (n / 512)) (BitVec.ofNat 3 (n / 64)) (BitVec.ofNat 3 (n / 8))
    (BitVec.ofNat 3 n) := by
  apply BitVec.eq_of_toNat_eq
  simp only [toNat_opWord, BitVec.toNat_ofNat]
  omega

@[simp] theorem or_opWord (l' : BitVec 4) (x' o' m' r' : BitVec 3) :
    opWord l x o m r ||| opWord l' x' o' m' r' =
      opWord (l ||| l') (x ||| x') (o ||| o') (m ||| m') (r ||| r') := by
  rw [← opWord_slices (_ ||| _)]
  simp only [BitVec.extractLsb'_or, opWord_line, opWord_slice9, opWord_slice6, opWord_slice3,
    opWord_slice0]

end

@[simp] theorem at3_0 (v : BitVec 3) : at3 v 0 = opWord 0 0 0 0 v := by
  revert v; decide

@[simp] theorem at3_3 (v : BitVec 3) : at3 v 3 = opWord 0 0 0 v 0 := by
  revert v; decide

@[simp] theorem at3_6 (v : BitVec 3) : at3 v 6 = opWord 0 0 v 0 0 := by
  revert v; decide

@[simp] theorem at3_9 (v : BitVec 3) : at3 v 9 = opWord 0 v 0 0 0 := by
  revert v; decide

@[simp] theorem srcField_opWord (ea : EA) :
    ea.srcField = opWord 0 0 0 ea.fields.1 ea.fields.2 := by
  simp [EA.srcField]

@[simp] theorem dstField_opWord (ea : EA) :
    ea.dstField = opWord 0 ea.fields.2 ea.fields.1 0 0 := by
  simp [EA.dstField]

@[simp] theorem toFin_regBits (n : Reg) : (regBits n).toFin = n := rfl

@[simp] theorem regBits_toFin (v : BitVec 3) : regBits v.toFin = v := rfl

/-! ### Three-bit fields -/

theorem field_cases (v : BitVec 3) :
    v = 0 ∨ v = 1 ∨ v = 2 ∨ v = 3 ∨ v = 4 ∨ v = 5 ∨ v = 6 ∨ v = 7 := by
  revert v; decide

theorem field_eq_zero {v : BitVec 3} : v.toNat = 0 ↔ v = 0#3 := by
  revert v; decide

theorem field_eq_one {v : BitVec 3} : v.toNat = 1 ↔ v = 1#3 := by
  revert v; decide

theorem field_and_four (v : BitVec 3) : v &&& 4#3 = if v[2] then 4#3 else 0#3 := by
  revert v; decide

/-! ### EA fields (R152, R153) -/

section
variable {l : BitVec 4} {x o m r : BitVec 3} {cls : EAClass} {ea : EA}

theorem eaOfFields_fields (ea : EA) :
    eaOfFields ea.fields.1.toNat ea.fields.2.toFin = some ea := by
  cases ea <;> rfl

theorem fields_eaOfFields : ∀ m r : BitVec 3,
    (eaOfFields m.toNat r.toFin).all (fun ea => ea.fields = (m, r)) = true := by
  decide

/-- Reading a mode and placing it are inverse to each other. -/
theorem eaOfFields_eq_some : eaOfFields m.toNat r.toFin = some ea ↔ ea.fields = (m, r) := by
  constructor
  · intro h
    simpa [h] using fields_eaOfFields m r
  · intro h
    simpa [h] using eaOfFields_fields ea

theorem eaIn_eq_some : eaIn cls (opWord l x o m r) = some ea ↔
    ea.fields = (m, r) ∧ ea.inClass cls = true := by
  simp [eaIn, eaOfFields_eq_some, Option.filter_eq_some_iff]

theorem moveDst_eq_some : moveDst (opWord l x o m r) = some ea ↔
    ea.fields = (o, x) ∧ ea.inClass .dalt = true := by
  simp [moveDst, eaOfFields_eq_some, Option.filter_eq_some_iff]

@[simp] theorem eaIn_fields (h : ea.inClass cls = true) :
    eaIn cls (opWord l x o ea.fields.1 ea.fields.2) = some ea :=
  eaIn_eq_some.mpr ⟨rfl, h⟩

@[simp] theorem moveDst_fields (h : ea.inClass .dalt = true) :
    moveDst (opWord l ea.fields.2 ea.fields.1 m r) = some ea :=
  moveDst_eq_some.mpr ⟨rfl, h⟩

theorem inClass_dreg (n : Reg) : (EA.dreg n).inClass cls = (EA.dreg 0).inClass cls := by
  cases cls <;> rfl

theorem inClass_areg (n : Reg) : (EA.areg n).inClass cls = (EA.areg 0).inClass cls := by
  cases cls <;> rfl

theorem mode_ne_dreg (h : ea.inClass cls = true) (hc : (EA.dreg 0).inClass cls = false) :
    ea.fields.1 ≠ 0#3 := by
  cases ea with
  | dreg n => simp [inClass_dreg n, hc] at h
  | _ => simp [EA.fields]

theorem mode_ne_areg (h : ea.inClass cls = true) (hc : (EA.areg 0).inClass cls = false) :
    ea.fields.1 ≠ 1#3 := by
  cases ea with
  | areg n => simp [inClass_areg n, hc] at h
  | _ => simp [EA.fields]

theorem fields_ne_imm (h : ea.inClass cls = true) (hc : EA.imm.inClass cls = false) :
    ¬ (ea.fields.1 = 7#3 ∧ ea.fields.2 = 4#3) := by
  cases ea with
  | imm => simp [hc] at h
  | _ => simp [EA.fields]

theorem two_le_mode (h : ea.inClass .malt = true) : 2 ≤ ea.fields.1.toNat := by
  have h0 := mode_ne_dreg h rfl
  have h1 := mode_ne_areg h rfl
  bv_omega

end

/-! ### Conditions (R50) -/

theorem condOf_code (c : Cond) : condOf c.code.toNat = c := by
  cases c <;> rfl

theorem code_condOf (c : BitVec 4) : (condOf c.toNat).code = c := by
  revert c; decide

theorem condField_opWord (c : Cond) : (c.code.setWidth 16 <<< 8 : Word) =
    opWord 0 (c.code.extractLsb' 1 3) (c.code.setWidth 3 <<< 2) 0 0 := by
  cases c <;> rfl

theorem condAt_opWord (l : BitVec 4) (x o m r : BitVec 3) :
    condAt (opWord l x o m r) = condOf (2 * x.toNat + o.toNat / 4) := by
  simp [condAt]

theorem condField_condAt (l : BitVec 4) (x o m r : BitVec 3) :
    ((condAt (opWord l x o m r)).code.setWidth 16 <<< 8 : Word) = opWord 0 x (o &&& 4) 0 0 := by
  rw [condAt_opWord]
  revert x o
  decide

/-! ### Words with a byte or twelve bits of data (R169, R477, R478) -/

section
variable (l c : BitVec 4) (d : Byte) (v : BitVec 12)

theorem byteWord_line : (byteWord l c d).extractLsb' 12 4 = l := by
  ext k hk
  simp [byteWord]
  grind

theorem byteWord_cond : (byteWord l c d).extractLsb' 8 4 = c := by
  ext k hk
  simp [byteWord]
  grind

theorem byteWord_low : (byteWord l c d).extractLsb' 0 8 = d := by
  ext k hk
  simp [byteWord]
  grind

theorem byteWord_slices (w : Word) :
    byteWord (w.extractLsb' 12 4) (w.extractLsb' 8 4) (w.extractLsb' 0 8) = w := by
  ext k hk
  simp [byteWord]
  grind

theorem condAt_byteWord : condAt (byteWord l c d) = condOf c.toNat := by
  rw [condAt, byteWord_cond]

theorem byteWord_bit8 : (byteWord l c d).getLsbD 8 = c.getLsbD 0 := by
  simpa using congrArg (·.getLsbD 0) (byteWord_cond l c d)

theorem regAt_byteWord : regAt (byteWord l c d) 9 = (c.extractLsb' 1 3).toFin := by
  have h : (byteWord l c d).extractLsb' 9 3 =
      ((byteWord l c d).extractLsb' 8 4).extractLsb' 1 3 := by
    ext k hk
    simp
    grind
  rw [regAt, h, byteWord_cond]

theorem restWord_line : (restWord l v).extractLsb' 12 4 = l := by
  ext k hk
  simp [restWord]
  grind

theorem restWord_rest : (restWord l v).extractLsb' 0 12 = v := by
  ext k hk
  simp [restWord]
  grind

theorem restWord_slices (w : Word) : restWord (w.extractLsb' 12 4) (w.extractLsb' 0 12) = w := by
  ext k hk
  simp [restWord]
  grind

end

theorem encode_bra (d : Byte) : encode (.bra d) = byteWord 6 0 d := rfl

theorem encode_bsr (d : Byte) : encode (.bsr d) = byteWord 6 1 d := rfl

theorem encode_bcc (c : Cond) (d : Byte) : encode (.bcc c d) = byteWord 6 c.code d := rfl

theorem encode_moveq (n : Reg) (d : Byte) :
    encode (.moveq n d) = byteWord 7 (regBits n ++ 0#1) d := by
  have h : ∀ v : BitVec 3, at3 v 9 = (v ++ 0#1 : BitVec 4).setWidth 16 <<< 8 := by decide
  rw [encode, h]
  rfl

theorem encode_lineA (v : BitVec 12) : encode (.lineA v) = restWord 0xA v := rfl

theorem encode_lineF (v : BitVec 12) : encode (.lineF v) = restWord 0xF v := rfl

end Sys2Proof
end

section
/-!
SUPPORT. Decoding the opcode word of a well-formed instruction (R150, R166-R171): row by row, the
fields of the encoded word send the decoder to the row they came from.
-/

namespace Sys2Proof

/-! ### Rows with a byte or twelve bits of data -/

theorem decodeRow_bra (d : Byte) : decodeRow (encode (.bra d)) = some (.bra d) := by
  simp only [encode_bra, decodeRow, byteWord_line, decodeLine6, condAt_byteWord, byteWord_low]
  rfl

theorem decodeRow_bsr (d : Byte) : decodeRow (encode (.bsr d)) = some (.bsr d) := by
  simp only [encode_bsr, decodeRow, byteWord_line, decodeLine6, condAt_byteWord, byteWord_low]
  rfl

theorem decodeRow_bcc {c : Cond} (d : Byte) (h : c ≠ .t ∧ c ≠ .f) :
    decodeRow (encode (.bcc c d)) = some (.bcc c d) := by
  simp only [encode_bcc, decodeRow, byteWord_line, decodeLine6, condAt_byteWord, condOf_code,
    byteWord_low]
  cases c <;> simp_all

theorem decodeRow_moveq (n : Reg) (d : Byte) :
    decodeRow (encode (.moveq n d)) = some (.moveq n d) := by
  have h : ∀ v : BitVec 3,
      (v ++ 0#1).getLsbD 0 = false ∧ (v ++ 0#1).extractLsb' 1 3 = v := by decide
  obtain ⟨h8, h9⟩ := h (regBits n)
  simp only [encode_moveq, decodeRow, byteWord_line, decodeLine7, byteWord_bit8, h8,
    regAt_byteWord, h9, byteWord_low]
  rfl

theorem decodeRow_lineA (v : BitVec 12) : decodeRow (encode (.lineA v)) = some (.lineA v) := by
  simp only [encode_lineA, decodeRow, restWord_line, restWord_rest]
  rfl

theorem decodeRow_lineF (v : BitVec 12) : decodeRow (encode (.lineF v)) = some (.lineF v) := by
  simp only [encode_lineF, decodeRow, restWord_line, restWord_rest]
  rfl

/-! ### Every row

In each case the encoded word is a packed word (`ofNat_opWord` packs the constant of the row), the
decoder reads its fields, and the operand's class says which of the rows that share those fields
does not apply. -/

theorem decodeRow_encode {i : Instr} (h : i.wf = true) : decodeRow (encode i) = some i := by
  cases i with
  | oriCcr | oriSr | andiCcr | andiSr | eoriCcr | eoriSr | illegal | reset | nop | stop | rte | rts
  | trapv | rtr => rfl
  | trap v => revert v; decide
  | bra d => exact decodeRow_bra d
  | bsr d => exact decodeRow_bsr d
  | bcc c d => exact decodeRow_bcc d (by simpa [Instr.wf] using h)
  | moveq x d => exact decodeRow_moveq x d
  | lineA v => exact decodeRow_lineA v
  | lineF v => exact decodeRow_lineF v
  | ori sz ea | andi sz ea | subi sz ea | addi sz ea | eori sz ea | cmpi sz ea =>
    rw [Instr.wf] at h
    cases sz <;> simp [encode, ofNat_opWord, decodeRow, decodeLine0, sizeAt, Size.field, h,
      fields_ne_imm h rfl]
  | bchgS ea | bclrS ea | bsetS ea | btstS ea =>
    rw [Instr.wf] at h
    simp [encode, ofNat_opWord, decodeRow, decodeLine0, h]
  | btstD x ea | bchgD x ea | bclrD x ea | bsetD x ea =>
    rw [Instr.wf] at h
    simp [encode, ofNat_opWord, decodeRow, decodeLine0, h, field_eq_one, mode_ne_areg h rfl]
  | movepWM2R x y | movepLM2R x y | movepWR2M x y | movepLR2M x y =>
    simp [encode, ofNat_opWord, decodeRow, decodeLine0]
  | moveB src dst =>
    rw [Instr.wf, Bool.and_eq_true] at h
    simp [encode, ofNat_opWord, decodeRow, decodeLine1, h]
  | moveW src dst | moveL src dst =>
    rw [Instr.wf, Bool.and_eq_true] at h
    simp [encode, ofNat_opWord, decodeRow, decodeLine2, decodeLine3, h, field_eq_one,
      mode_ne_areg h.2 rfl]
  | moveaW src x | moveaL src x =>
    rw [Instr.wf] at h
    simp [encode, ofNat_opWord, decodeRow, decodeLine2, decodeLine3, h]
  | negx sz ea | clr sz ea | neg sz ea | notEa sz ea | tst sz ea =>
    rw [Instr.wf] at h
    cases sz <;> simp [encode, ofNat_opWord, decodeRow, decodeLine4, sizeAt, Size.field, h]
  | nbcd ea | moveFromSr ea | chk x ea | moveToCcr ea | moveToSr ea | movemWM2R ea | movemLM2R ea
  | lea x ea | jsr ea | jmp ea =>
    rw [Instr.wf] at h
    simp [encode, ofNat_opWord, decodeRow, decodeLine4, sizeAt, h]
  | tas ea =>
    rw [Instr.wf] at h
    simp [encode, ofNat_opWord, decodeRow, decodeLine4, sizeAt, h, fields_ne_imm h rfl]
  | movemWR2M ea | movemLR2M ea | pea ea =>
    rw [Instr.wf] at h
    simp [encode, ofNat_opWord, decodeRow, decodeLine4, h, field_eq_zero, mode_ne_dreg h rfl]
  | swap y | extW y | extL y =>
    simp [encode, ofNat_opWord, decodeRow, decodeLine4]
  | link y | unlk y | moveToUsp y | moveFromUsp y =>
    simp [encode, ofNat_opWord, decodeRow, decodeLine4, decodeMisc]
  | addqB q ea | subqB q ea =>
    rw [Instr.wf] at h
    simp [encode, ofNat_opWord, decodeRow, decodeLine5, sizeAt, h]
  | addqWL q sz ea | subqWL q sz ea =>
    cases sz <;> simp [Instr.wf] at h <;>
      simp [encode, ofNat_opWord, decodeRow, decodeLine5, sizeAt, Size.field, h]
  | dbcc cond y =>
    simp only [encode, condField_opWord]
    cases cond <;> simp [ofNat_opWord, decodeRow, decodeLine5, sizeAt, condAt_opWord, Cond.code,
      condOf]
  | scc cond ea =>
    rw [Instr.wf] at h
    simp only [encode, condField_opWord]
    cases cond <;> simp [ofNat_opWord, decodeRow, decodeLine5, sizeAt, condAt_opWord, Cond.code,
      condOf, h, field_eq_one, mode_ne_areg h rfl]
  | orEaD x sz ea | andEaD x sz ea =>
    rw [Instr.wf] at h
    cases sz <;>
      simp [encode, ofNat_opWord, decodeRow, decodeLine8, decodeLineC, sizeAt, Size.field, h]
  | divu x ea | divs x ea | mulu x ea | muls x ea | subaW x ea | subaL x ea | addaW x ea
  | addaL x ea | cmpaW x ea | cmpaL x ea | subEaDB x ea | addEaDB x ea | cmpB x ea =>
    rw [Instr.wf] at h
    simp [encode, ofNat_opWord, decodeRow, decodeLine8, decodeLine9, decodeLineB, decodeLineC,
      decodeLineD, h]
  | addEaDWL x sz ea | subEaDWL x sz ea | cmpWL x sz ea =>
    cases sz <;> simp [Instr.wf] at h <;>
      simp [encode, ofNat_opWord, decodeRow, decodeLineD, decodeLine9, decodeLineB, sizeAt,
        Size.field, h]
  | orDEa x sz ea =>
    rw [Instr.wf] at h
    cases sz <;> simp [encode, ofNat_opWord, decodeRow, decodeLine8, sizeAt, Size.field,
      field_eq_zero, field_eq_one, h, mode_ne_dreg h rfl, mode_ne_areg h rfl]
  | eor x sz ea =>
    rw [Instr.wf] at h
    cases sz <;> simp [encode, ofNat_opWord, decodeRow, decodeLineB, sizeAt, Size.field,
      field_eq_one, h, mode_ne_areg h rfl]
  | addDEa x sz ea | subDEa x sz ea | andDEa x sz ea =>
    rw [Instr.wf] at h
    -- the other rows with these fields have mode 0 or 1
    have hlo := two_le_mode h
    have hhi := ea.fields.1.isLt
    cases sz <;> simp [encode, ofNat_opWord, decodeRow, decodeLineD, decodeLine9, decodeLineC,
      sizeAt, Size.field, h] <;> grind [eaIn_fields]
  | subxR x sz y | subxM x sz y | addxR x sz y | addxM x sz y | cmpm x sz y =>
    cases sz <;> simp [encode, ofNat_opWord, decodeRow, decodeLineD, decodeLine9, decodeLineB,
      sizeAt, Size.field]
  | sbcdR x y | sbcdM x y | abcdR x y | abcdM x y | exgDD x y | exgAA x y | exgDA x y =>
    simp [encode, ofNat_opWord, decodeRow, decodeLine8, decodeLineC, sizeAt]
  | asrR n sz y | aslR n sz y | lsrR n sz y | lslR n sz y | roxrR n sz y | roxlR n sz y
  | rorR n sz y | rolR n sz y =>
    cases n <;> cases sz <;> simp [encode, ofNat_opWord, decodeRow, decodeLineE, sizeAt,
      decodeShiftReg, Size.field, Count.field, countAt]
  | asrM ea | aslM ea | lsrM ea | lslM ea | roxrM ea | roxlM ea | rorM ea | rolM ea =>
    rw [Instr.wf] at h
    simp [encode, ofNat_opWord, decodeRow, decodeLineE, sizeAt, decodeShiftMem, h]

/-- Settles O1, row by row (`decodeRow_encode`). -/
theorem decodeOfEncode : Obligations.DecodeOfEncode := by
  unfold Obligations.DecodeOfEncode
  intro i h
  rw [decode, decodeRow_encode h]

end Sys2Proof
end

section
/-!
SUPPORT. Encoding what a word decodes to (R153, R171), line by line: a branch of the decoder that
answers an instruction has fixed the fields that the row of this instruction fixes, and takes the
operands from the others.
-/

namespace Sys2Proof

/-- Each instruction that `d` answers is well-formed and has the opcode word `w`. -/
def ReadsBack (d : Option Instr) (w : Word) : Prop :=
  ∀ i, d = some i → encode i = w ∧ i.wf = true

section
variable {l : BitVec 4} {x o m r : BitVec 3} {w : Word} {i : Instr} {d e : Option Instr}
  {cls : EAClass}

/-! ### The branches of the decoder -/

theorem readsBack_none : ReadsBack none w := fun _ h => by cases h

theorem readsBack_some : ReadsBack (some i) w ↔ encode i = w ∧ i.wf = true := by
  simp [ReadsBack]

theorem readsBack_ite {c : Prop} [Decidable c] :
    ReadsBack (if c then d else e) w ↔ (c → ReadsBack d w) ∧ (¬ c → ReadsBack e w) := by
  by_cases h : c <;> simp [h]

theorem readsBack_bind {f : EA → Option Instr} {a : Option EA} :
    ReadsBack (a.bind f) w ↔ ∀ ea, a = some ea → ReadsBack (f ea) w := by
  cases a <;> simp [readsBack_none]

theorem readsBack_map {f : EA → Instr} {a : Option EA} :
    ReadsBack (a.map f) w ↔ ∀ ea, a = some ea → encode (f ea) = w ∧ (f ea).wf = true := by
  cases a <;> simp [readsBack_none, readsBack_some]

/-- A branch that reads an operand from the EA field. -/
theorem readsBack_ea {f : EA → Instr} : ReadsBack ((eaIn cls (opWord l x o m r)).map f) w ↔
    ∀ ea : EA, ea.fields = (m, r) → ea.inClass cls = true →
      encode (f ea) = w ∧ (f ea).wf = true := by
  simp only [readsBack_map, eaIn_eq_some, and_imp]

/-! ### Lines 0 and 4 (R166, R168) -/

/-- Line 0 with bit 8 set: the dynamic bit instructions and MOVEP. -/
theorem readsBack_line0_set (h : o[2] = true) :
    ReadsBack (decodeLine0 (opWord 0 x o m r)) (opWord 0 x o m r) := by
  rcases field_cases o with rfl | rfl | rfl | rfl | rfl | rfl | rfl | rfl <;>
    simp +contextual [decodeLine0, readsBack_ea, readsBack_ite, readsBack_some, encode,
      ofNat_opWord, field_eq_one, Instr.wf] at h ⊢

/-- Line 0 with bit 8 clear: the immediate and the static bit instructions. -/
theorem readsBack_line0_clear (h : o[2] = false) :
    ReadsBack (decodeLine0 (opWord 0 x o m r)) (opWord 0 x o m r) := by
  rcases field_cases x with rfl | rfl | rfl | rfl | rfl | rfl | rfl | rfl <;>
    rcases field_cases o with rfl | rfl | rfl | rfl | rfl | rfl | rfl | rfl <;>
    simp +contextual [decodeLine0, sizeAt, Size.field, readsBack_ea, readsBack_ite,
      readsBack_some, readsBack_none, encode, ofNat_opWord, Instr.wf] at h ⊢

theorem readsBack_line0 : ReadsBack (decodeLine0 (opWord 0 x o m r)) (opWord 0 x o m r) := by
  cases h : o[2] with
  | true => exact readsBack_line0_set h
  | false => exact readsBack_line0_clear h

/-- TRAP: the vector number is the low bit of the mode and the register field. -/
theorem readsBack_trap (h : m = 0 ∨ m = 1) :
    ReadsBack (decodeMisc (opWord 4 7 1 m r)) (opWord 4 7 1 m r) := by
  rcases h with rfl | rfl <;>
    rcases field_cases r with rfl | rfl | rfl | rfl | rfl | rfl | rfl | rfl <;>
    exact readsBack_some.mpr (by decide)

theorem readsBack_misc :
    ReadsBack (decodeMisc (opWord 4#4 7#3 1#3 m r)) (opWord 4#4 7#3 1#3 m r) := by
  rcases field_cases m with rfl | rfl | rfl | rfl | rfl | rfl | rfl | rfl
  · exact readsBack_trap (.inl rfl)
  · exact readsBack_trap (.inr rfl)
  case' inr.inr.inr.inr.inr.inr.inl =>
    rcases field_cases r with rfl | rfl | rfl | rfl | rfl | rfl | rfl | rfl
  all_goals simp [decodeMisc, readsBack_some, readsBack_none, encode, ofNat_opWord, Instr.wf]

theorem readsBack_line4 : ReadsBack (decodeLine4 (opWord 4 x o m r)) (opWord 4 x o m r) := by
  rcases field_cases o with rfl | rfl | rfl | rfl | rfl | rfl | rfl | rfl <;>
    simp +contextual [decodeLine4, sizeAt, readsBack_ea, readsBack_none, encode, ofNat_opWord,
      Instr.wf]
  all_goals
    rcases field_cases x with rfl | rfl | rfl | rfl | rfl | rfl | rfl | rfl <;>
      simp +contextual [Size.field, readsBack_ea, readsBack_ite, readsBack_some, readsBack_none,
        readsBack_misc, encode, ofNat_opWord, field_eq_zero, Instr.wf]

/-! ### Lines 1, 2 and 3: MOVE and MOVEA (R167) -/

theorem readsBack_move {D : Word → Option Instr}
    (hD : (D, l) ∈ [(decodeLine1, 1), (decodeLine2, 2), (decodeLine3, 3)]) :
    ReadsBack (D (opWord l x o m r)) (opWord l x o m r) := by
  simp only [List.mem_cons, Prod.mk.injEq, List.not_mem_nil, or_false] at hD
  rcases hD with ⟨rfl, rfl⟩ | ⟨rfl, rfl⟩ | ⟨rfl, rfl⟩ <;>
    simp +contextual [decodeLine1, decodeLine2, decodeLine3, readsBack_ite, readsBack_bind,
      readsBack_map, eaIn_eq_some, moveDst_eq_some, field_eq_one, encode, ofNat_opWord, Instr.wf]

/-! ### Lines 5, 6 and 7 (R169) -/

theorem readsBack_line5 : ReadsBack (decodeLine5 (opWord 5 x o m r)) (opWord 5 x o m r) := by
  rcases field_cases o with rfl | rfl | rfl | rfl | rfl | rfl | rfl | rfl <;>
    simp +contextual [decodeLine5, sizeAt, Size.field, condField_condAt, readsBack_ea,
      readsBack_ite, readsBack_some, encode, ofNat_opWord, field_eq_one, Instr.wf]

theorem readsBack_line6 {c : BitVec 4} {b : Byte} :
    ReadsBack (decodeLine6 (byteWord 6 c b)) (byteWord 6 c b) := by
  have hc := code_condOf c
  rw [decodeLine6, condAt_byteWord, byteWord_low]
  split
  · next h => rw [h] at hc; rw [readsBack_some, ← hc]; exact ⟨rfl, rfl⟩
  · next h => rw [h] at hc; rw [readsBack_some, ← hc]; exact ⟨rfl, rfl⟩
  · next ht hf =>
    rw [readsBack_some, encode_bcc, hc]
    exact ⟨rfl, by simpa [Instr.wf] using ⟨ht, hf⟩⟩

theorem readsBack_line7 {c : BitVec 4} {b : Byte} :
    ReadsBack (decodeLine7 (byteWord 7 c b)) (byteWord 7 c b) := by
  rw [decodeLine7, byteWord_bit8, regAt_byteWord, byteWord_low, readsBack_ite]
  refine ⟨fun _ => readsBack_none, fun h => readsBack_some.mpr ⟨?_, rfl⟩⟩
  have hc : ∀ v : BitVec 4, ¬ v.getLsbD 0 = true → v.extractLsb' 1 3 ++ 0#1 = v := by decide
  rw [encode_moveq, regBits_toFin, hc c h]

/-! ### Lines 8, 9, B, C and D: arithmetic and logic (R170) -/

theorem readsBack_arithmetic {D : Word → Option Instr}
    (hD : (D, l) ∈ [(decodeLine8, 8), (decodeLine9, 9), (decodeLineB, 0xB), (decodeLineC, 0xC),
      (decodeLineD, 0xD)]) : ReadsBack (D (opWord l x o m r)) (opWord l x o m r) := by
  simp only [List.mem_cons, Prod.mk.injEq, List.not_mem_nil, or_false] at hD
  rcases hD with ⟨rfl, rfl⟩ | ⟨rfl, rfl⟩ | ⟨rfl, rfl⟩ | ⟨rfl, rfl⟩ | ⟨rfl, rfl⟩ <;>
    rcases field_cases o with rfl | rfl | rfl | rfl | rfl | rfl | rfl | rfl <;>
    simp +contextual [decodeLine8, decodeLine9, decodeLineB, decodeLineC, decodeLineD, sizeAt,
      Size.field, readsBack_ea, readsBack_ite, readsBack_some, encode, ofNat_opWord,
      field_eq_zero, field_eq_one, Instr.wf]
  -- lines 9, C and D with bit 8 set: the mode tells the rows apart
  all_goals
    rcases field_cases m with rfl | rfl | rfl | rfl | rfl | rfl | rfl | rfl <;>
      simp +contextual [Size.field, readsBack_ea, readsBack_some, encode, ofNat_opWord, Instr.wf]

/-! ### Line E: shifts and rotates (R170) -/

theorem encode_decodeShiftReg (sz : Size) : encode (decodeShiftReg (opWord 14#4 x o m r) sz) =
    opWord 14#4 x (o &&& 4) m r ||| sz.field := by
  cases ho : o[2] <;>
    rcases field_cases m with rfl | rfl | rfl | rfl | rfl | rfl | rfl | rfl <;> cases sz <;>
    simp [decodeShiftReg, countAt, encode, ofNat_opWord, Size.field, Count.field, field_and_four,
      ho]

theorem wf_decodeShiftReg (sz : Size) : (decodeShiftReg w sz).wf = true := by
  unfold decodeShiftReg
  split <;> rfl

theorem encode_decodeShiftMem {ea : EA} (hf : ea.fields = (m, r)) (hx : x[2] = false) :
    encode (decodeShiftMem (opWord 14#4 x o m r) ea) = opWord 14#4 x (3 ||| (o &&& 4)) m r := by
  cases ho : o[2] <;>
    rcases field_cases x with rfl | rfl | rfl | rfl | rfl | rfl | rfl | rfl <;>
    simp [decodeShiftMem, encode, ofNat_opWord, field_and_four, ho, hf] at hx ⊢

theorem wf_decodeShiftMem {ea : EA} : (decodeShiftMem w ea).wf = ea.inClass .malt := by
  unfold decodeShiftMem
  split <;> rfl

theorem readsBack_lineE : ReadsBack (decodeLineE (opWord 0xE x o m r)) (opWord 0xE x o m r) := by
  rcases field_cases o with rfl | rfl | rfl | rfl | rfl | rfl | rfl | rfl <;>
    simp +contextual [decodeLineE, sizeAt, Size.field, ofNat_opWord, readsBack_ea, readsBack_ite,
      readsBack_some, readsBack_none, encode_decodeShiftReg, wf_decodeShiftReg,
      encode_decodeShiftMem, wf_decodeShiftMem]

/-! ### Every line -/

section
variable {D : Word → Option Instr} (h : (w.extractLsb' 12 4).toNat = l.toNat)
include h

theorem readsBack_of_opWord
    (hD : ∀ {x o m r}, ReadsBack (D (opWord l x o m r)) (opWord l x o m r)) :
    ReadsBack (D w) w := by
  have hw := opWord_slices w
  rw [BitVec.eq_of_toNat_eq h] at hw
  exact hw ▸ hD

theorem readsBack_of_byteWord
    (hD : ∀ {c b}, ReadsBack (D (byteWord l c b)) (byteWord l c b)) : ReadsBack (D w) w := by
  have hw := byteWord_slices w
  rw [BitVec.eq_of_toNat_eq h] at hw
  exact hw ▸ hD

theorem readsBack_of_restWord {f : BitVec 12 → Instr} (hf : ∀ v, (f v).wf = true)
    (he : ∀ v, encode (f v) = restWord l v) : ReadsBack (some (f (w.extractLsb' 0 12))) w := by
  have hw := restWord_slices w
  rw [BitVec.eq_of_toNat_eq h] at hw
  exact readsBack_some.mpr ⟨(he _).trans hw, hf _⟩

end

theorem readsBack_decodeRow (w : Word) : ReadsBack (decodeRow w) w := by
  unfold decodeRow
  split
  case h_1 h => exact readsBack_of_opWord (l := 0) h readsBack_line0
  case h_2 h => exact readsBack_of_opWord (l := 1) h (readsBack_move (by simp))
  case h_3 h => exact readsBack_of_opWord (l := 2) h (readsBack_move (by simp))
  case h_4 h => exact readsBack_of_opWord (l := 3) h (readsBack_move (by simp))
  case h_5 h => exact readsBack_of_opWord (l := 4) h readsBack_line4
  case h_6 h => exact readsBack_of_opWord (l := 5) h readsBack_line5
  case h_7 h => exact readsBack_of_byteWord (l := 6) h readsBack_line6
  case h_8 h => exact readsBack_of_byteWord (l := 7) h readsBack_line7
  case h_9 h => exact readsBack_of_opWord (l := 8) h (readsBack_arithmetic (by simp))
  case h_10 h => exact readsBack_of_opWord (l := 9) h (readsBack_arithmetic (by simp))
  case h_11 h => exact readsBack_of_restWord (l := 0xA) h (fun _ => rfl) encode_lineA
  case h_12 h => exact readsBack_of_opWord (l := 0xB) h (readsBack_arithmetic (by simp))
  case h_13 h => exact readsBack_of_opWord (l := 0xC) h (readsBack_arithmetic (by simp))
  case h_14 h => exact readsBack_of_opWord (l := 0xD) h (readsBack_arithmetic (by simp))
  case h_15 h => exact readsBack_of_opWord (l := 0xE) h readsBack_lineE
  case h_16 =>
    have hlt := (w.extractLsb' 12 4).isLt
    have h : (w.extractLsb' 12 4).toNat = 15 := by
      simp only [imp_false] at *
      omega
    exact readsBack_of_restWord (l := 0xF) h (fun _ => rfl) encode_lineF

end

/-! ### The obligations -/

/-- Settles O2, by `readsBack_decodeRow`; no well-formed instruction has a refused word, as the word
of one is decoded (`decodeRow_encode`). -/
theorem encodeOfDecode : Obligations.EncodeOfDecode := by
  unfold Obligations.EncodeOfDecode
  intro w
  cases h : decodeRow w with
  | some j =>
    have hd : decode w = .ok j := by rw [decode, h]
    refine ⟨fun i hi => ?_, fun e he => ?_⟩
    · rw [hd, Except.ok.injEq] at hi
      exact hi ▸ readsBack_decodeRow w j h
    · rw [hd] at he
      cases he
  | none =>
    have hd : decode w = .error .unassigned := by rw [decode, h]
    refine ⟨fun i hi => ?_, fun e he => ⟨?_, fun i hi hw => ?_⟩⟩
    · rw [hd] at hi
      cases hi
    · rw [hd, Except.error.injEq] at he
      exact he.symm
    · rw [← hw, decodeRow_encode hi] at h
      cases h

/-- Settles O3: the decoder, run on the eight words. -/
theorem specWordsDecode : Obligations.SpecWordsDecode := by
  unfold Obligations.SpecWordsDecode
  decide

end Sys2Proof
end

section
/-!
SUPPORT. Reading an operand that can be resolved and read (R160-R163), and the entry of an exception
whose frame and vector are accessible (R510, R512).
-/

namespace Sys2Proof.Machine

variable {s t u : State} {sz : Size} {ea : EA} {a : Long}

/-! ### Operands -/

theorem afterEa_mem (s : State) (sz : Size) (ea : EA) : (afterEa s sz ea).mem = s.mem := by
  cases ea <;> simp [afterEa]

/-- What memory holds is a matter of its bytes alone (R106). -/
theorem valueAt_congr (h : t.mem = s.mem) (sz : Size) (a : Long) :
    valueAt t sz a = valueAt s sz a := by
  cases sz <;> simp only [valueAt, wordAt, h]

/-- Reading the place of an operand, in a state that agrees with the one after it is resolved:
a register, a place in data or program space, or the immediate (R163). -/
theorem sameButBus_readLoc (hq : quiet s = true) (hr : readable s sz ea = true)
    (b : SameButBus t (afterEa s sz ea)) :
    ∃ u, readLoc sz (locOf s sz ea) t = .ok (operand s sz ea) u ∧ SameButBus u t := by
  have hqt : quiet t = true := by
    rw [quiet, b.congr State.handlers, afterEa_handlers]
    exact hq
  have hacc (hm : inMemory ea = true) : accessible t sz (eaAddr s sz ea) = true := by
    rw [accessible_congr ((b.congr State.map).trans (afterEa_map s sz ea))]
    simpa [hm] using (Bool.and_eq_true_iff.1 hr).2
  have hval : valueAt t sz (eaAddr s sz ea) = valueAt s sz (eaAddr s sz ea) :=
    valueAt_congr ((b.congr State.mem).trans (afterEa_mem s sz ea)) _ _
  cases ea with
  | dreg n =>
    have h := b.congr fun u => trunc sz (u.readD n)
    exact ⟨t, congrArg (EStateM.Result.ok · t) h, .refl t⟩
  | areg n =>
    have h := b.congr fun u => trunc sz (u.readA n)
    exact ⟨t, congrArg (EStateM.Result.ok · t) h, .refl t⟩
  | imm => exact ⟨t, rfl, .refl t⟩
  | pcDisp | pcIndex =>
    obtain ⟨u, e, bu⟩ := sameButBus_memReadPc hqt (hacc rfl)
    rw [hval] at e
    exact ⟨u, e, bu⟩
  | _ =>
    obtain ⟨u, e, bu⟩ := sameButBus_memRead .instruction hqt (hacc rfl)
    rw [hval] at e
    exact ⟨u, e, bu⟩

/-- Settles O10: `sameButBus_resolveEa`, then `sameButBus_readLoc`. -/
theorem operandsResolveAndRead : Obligations.OperandsResolveAndRead := by
  unfold Obligations.OperandsResolveAndRead
  intro s sz ea hq hr
  obtain ⟨t, et, bt⟩ := sameButBus_resolveEa hq (Bool.and_eq_true_iff.1 hr).1
  obtain ⟨u, eu, bu⟩ := sameButBus_readLoc hq hr bt
  exact ⟨u, (bind_ok _ et).trans eu, bu.trans bt⟩

/-! ### Exception entry -/

theorem SameButBus.pushed (h : SameButBus t u) (sz : Size) (v : Long) :
    SameButBus (pushed sz v t) (pushed sz v u) :=
  h.map (Machine.pushed sz v) fun s _ _ => by
    simp only [Machine.pushed, State.setActiveSp_eq]
    rfl

theorem activeSp_supervisor (h : s.flagS = true) : s.activeSp = s.ssp := by
  rw [State.activeSp, if_pos h]

theorem entered_flagS (mask : Option Level) (s : State) : (entered mask s).flagS = true := by
  cases mask <;> simp [entered, State.flagS, entrySr, srMask]

theorem pushed_map (sz : Size) (v : Long) (s : State) : (pushed sz v s).map = s.map := by
  simp only [pushed, State.setActiveSp_eq]
  rfl

theorem pushed_handlers (sz : Size) (v : Long) (s : State) :
    (pushed sz v s).handlers = s.handlers := by
  simp only [pushed, State.setActiveSp_eq]
  rfl

theorem pushed_activeSp (sz : Size) (v : Long) (s : State) :
    (pushed sz v s).activeSp = s.activeSp - BitVec.ofNat 32 (bytesOf sz) :=
  State.activeSp_setActiveSp s _

/-- The entry of an exception ends at its handler (R510): the frame of R512 is pushed on the
supervisor stack, as S is set before, and pc comes from the vector. -/
theorem sameButBus_exceptionEntry {v : Byte} (hq : quiet s = true) (hc : canEnter v s = true)
    (pc : Long) (mask : Option Level) :
    ∃ t, exceptionEntry v pc mask s = .ok () t ∧ SameButBus t (atHandler v pc mask s) := by
  obtain ⟨⟨h4, h6⟩, hv⟩ : (accessible s .l (s.ssp - 4) = true ∧
      accessible s .w (s.ssp - 6) = true) ∧ accessible s .l (vectorAddr v) = true := by
    simpa [canEnter] using hc
  have hsp : (entered mask s).activeSp = s.ssp := activeSp_supervisor (entered_flagS mask s)
  obtain ⟨t, et, bt⟩ := push_accessible (s := entered mask s) (sz := .l) .exception hq
    (by rw [hsp]; exact h4) nofun pc
  have hspt : t.activeSp = s.ssp - 4 := by
    rw [bt.congr State.activeSp, pushed_activeSp, hsp]
    rfl
  have hmt : t.map = s.map := (bt.congr State.map).trans (pushed_map _ _ _)
  have hqt : quiet t = true := by
    rw [quiet, bt.congr State.handlers, pushed_handlers]
    exact hq
  obtain ⟨u, eu, bu⟩ := push_accessible (s := t) (sz := .w) .exception hqt
    (by
      have h : s.ssp - 4 - BitVec.ofNat 32 (bytesOf .w) = s.ssp - 6 := by
        simp only [bytesOf]
        bv_omega
      rw [hspt, h, accessible_congr hmt]
      exact h6) nofun (s.sr.setWidth 32)
  have b := bu.trans (bt.pushed .w (s.sr.setWidth 32))
  have hmu : u.map = s.map := by rw [bu.congr State.map, pushed_map, hmt]
  have hqu : quiet u = true := by
    rw [quiet, bu.congr State.handlers, pushed_handlers]
    exact hqt
  obtain ⟨x, ex, bx⟩ := sameButBus_memRead (s := u) (sz := .l) (a := vectorAddr v) .exception hqu
    (by rw [accessible_congr hmu]; exact hv)
  refine ⟨_, (bind_ok _ et).trans ((bind_ok _ eu).trans (bind_ok _ ex)), ?_⟩
  rw [b.congr fun u => valueAt u .l (vectorAddr v)]
  exact (bx.trans b).map fun u => { u with pc := valueAt _ .l (vectorAddr v), stopped := false }

/-! ### The privilege check -/

/-- In user state no privileged instruction begins (R172, R479). -/
theorem exec_privileged_user {i : Instr} (hp : isPrivileged i = true) (hS : s.flagS = false) :
    exec i s = decodeTimeException 8 (·.exception.privilege) s := by
  cases i with
  | andiSr | oriSr | eoriSr | moveToSr ea | moveToUsp y | moveFromUsp y | reset | rte | stop =>
    exact privileged_user _ hS
  | _ => cases hp

/-- An exception raised at decode ends the step at its handler (R514-R516). -/
theorem reaches_decodeTimeException {v : Byte} (hq : quiet s = true) (hc : canEnter v s = true)
    (cost : Cost) : Reaches (decodeTimeException v cost s) (trapsAtDecode v cost s) := by
  obtain ⟨t, e, b⟩ := sameButBus_exceptionEntry hq hc s.instPc none
  refine ⟨finish .decodeTime cost t, ?_, b.map (finish .decodeTime cost)⟩
  rw [decodeTimeException, takeException, e]

/-- Settles O40: `exec_privileged_user`, then `reaches_decodeTimeException`. -/
theorem privilegeViolation : Obligations.PrivilegeViolation := by
  unfold Obligations.PrivilegeViolation
  intro s i hq hS hp hc
  rw [exec_privileged_user hp hS]
  exact reaches_decodeTimeException hq hc _

end Sys2Proof.Machine
end

section
/-!
SUPPORT. Running a body without the function code and the record of calls in sight: `Yields x s a u`
says that `x`, run in any state that agrees with `s`, answers `a` in a state that agrees with `u`.
One lemma for each shared operation of the bodies; the meaning of an instruction is the chain of
them.
-/

namespace Sys2Proof.Machine

variable {α β : Type} {s t u : State} {sz : Size} {ea : EA} {a : Long}

/-! ### The relation -/

/-- Run in any state that agrees with `s`, `x` answers `a` and ends in a state that agrees
with `u`. -/
def Yields (x : Exec α) (s : State) (a : α) (u : State) : Prop :=
  ∀ s', SameButBus s' s → ∃ u', x s' = .ok a u' ∧ SameButBus u' u

theorem Yields.bind {x : Exec α} {f : α → Exec β} {a : α} {b : β} (hx : Yields x s a t)
    (hf : Yields (f a) t b u) : Yields (x >>= f) s b u := fun s' hs => by
  obtain ⟨t', et, bt⟩ := hx s' hs
  obtain ⟨u', eu, bu⟩ := hf t' bt
  exact ⟨u', (bind_ok f et).trans eu, bu⟩

/-- A body that completes is an instruction that does. -/
theorem Yields.reaches {body : Exec Done} {cost : Cost} (h : Yields body s (.completed cost) u) :
    Reaches (perform body s) (completes cost u) := by
  obtain ⟨u', e, b⟩ := h s (.refl s)
  exact ⟨_, perform_completed e, b.completes cost⟩

/-- What is to be shown when FC and the calls are put in by hand. -/
theorem yields_of {x : Exec α} {a : α}
    (h : ∀ fc calls, ∃ u', x { s with fc := fc, calls := calls } = .ok a u' ∧ SameButBus u' u) :
    Yields x s a u := fun s' hs => by
  obtain ⟨fc, calls, rfl⟩ := sameButBus_iff.1 hs
  exact h fc calls

theorem yields_pure (a : α) (s : State) : Yields (pure a : Exec α) s a s := fun s' hs =>
  ⟨s', rfl, hs⟩

theorem yields_look (f : State → α) (s : State)
    (hf : ∀ s fc calls, f { s with fc := fc, calls := calls } = f s := by intros; rfl) :
    Yields (look f) s (f s) s := fun s' hs =>
  ⟨s', congrArg (EStateM.Result.ok · s') (hs.congr f hf), hs⟩

theorem yields_update {f : State → State} {s : State}
    (hf : ∀ s', SameButBus s' s → SameButBus (f s') (f s)) : Yields (update f) s () (f s) :=
  fun s' hs => ⟨f s', rfl, hf s' hs⟩

/-! ### Registers and condition codes -/

theorem yields_storeD (sz : Size) (n : Reg) (v : Long) (s : State) :
    Yields (storeD sz n v) s () (s.mergeD sz n v) := yields_update fun _ hs => hs.mergeD sz n v

theorem yields_storeA (n : Reg) (v : Long) (s : State) :
    Yields (storeA n v) s () (s.writeA n v) := yields_update fun _ hs => hs.writeA n v

theorem yields_loadD (sz : Size) (n : Reg) (s : State) :
    Yields (loadD sz n) s (trunc sz (s.readD n)) s := yields_look _ s

theorem yields_loadA (n : Reg) (s : State) : Yields (loadA n) s (s.readA n) s := yields_look _ s

/-- A7 moved by an amount that its own value gives. -/
theorem yields_setActiveSp (f : Long → Long) (s : State) :
    Yields (update fun s => s.setActiveSp (f s.activeSp)) s () (s.setActiveSp (f s.activeSp)) :=
  yields_update fun s' hs => by
    rw [hs.congr State.activeSp]
    exact hs.setActiveSp _

theorem yields_setFlagsFrom (f : Flags → Flags) (s : State) :
    Yields (setFlagsFrom f) s () (s.setFlags (f s.flags)) := yields_update fun s' hs => by
  rw [hs.congr State.flags]
  exact hs.setFlags _

theorem yields_setLogic (sz : Size) (r : Long) (s : State) :
    Yields (setLogic sz r) s () (s.setFlags (logicFlags s.flagX sz r)) := yields_setFlagsFrom _ s

/-- A free bit (log 2). -/
theorem yields_drawBit (s : State) :
    Yields drawBit s (Config.freeBit s.draws) { s with draws := s.draws + 1 } := fun s' hs =>
  ⟨_, congrArg (EStateM.Result.ok · _) (hs.congr fun s => Config.freeBit s.draws),
    hs.map fun s => { s with draws := s.draws + 1 }⟩

/-! ### Accesses -/

theorem yields_memRead (ph : Phase) (hq : quiet s = true) (h : accessible s sz a = true) :
    Yields (memRead ph sz a) s (valueAt s sz a) s := yields_of fun fc calls =>
  sameButBus_memRead (s := { s with fc := fc, calls := calls }) ph hq h

theorem yields_memReadPc (hq : quiet s = true) (h : accessible s sz a = true) :
    Yields (memReadPc sz a) s (valueAt s sz a) s := yields_of fun fc calls =>
  sameButBus_memReadPc (s := { s with fc := fc, calls := calls }) hq h

theorem yields_memWrite (hq : quiet s = true) (h : storable s s.pc sz a = true) (v : Long) :
    Yields (memWrite .instruction sz a v) s () (putMem sz a v s) := yields_of fun fc calls =>
  have ⟨ha, hc⟩ := Bool.and_eq_true_iff.1 h
  sameButBus_memWrite (s := { s with fc := fc, calls := calls }) .instruction hq ha (fun _ => hc) v

theorem yields_fetchWord (hq : quiet s = true) (h : fetchable s s.pc 1 = true) :
    Yields fetchWord s (wordAt s s.pc) (skipWords 1 s) := yields_of fun fc calls =>
  sameButBus_fetchWord (s := { s with fc := fc, calls := calls }) hq h

theorem yields_fetchDisp (hq : quiet s = true) (h : fetchable s s.pc 1 = true) :
    Yields fetchDisp s ((wordAt s s.pc).signExtend 32) (skipWords 1 s) :=
  (yields_fetchWord hq h).bind (yields_pure _ _)

theorem yields_push (hq : quiet s = true)
    (h : storable s s.pc sz (s.activeSp - BitVec.ofNat 32 (bytesOf sz)) = true) (v : Long) :
    Yields (push .instruction sz v) s () (pushed sz v s) := fun s' hs => by
  obtain ⟨fc, calls, rfl⟩ := sameButBus_iff.1 hs
  have ⟨ha, hc⟩ := Bool.and_eq_true_iff.1 h
  obtain ⟨t, e, b⟩ := push_accessible (s := { s with fc := fc, calls := calls }) .instruction hq ha
    (fun _ => hc) v
  exact ⟨t, e, b.trans (hs.pushed sz v)⟩

theorem yields_pop (hq : quiet s = true) (h : accessible s sz s.activeSp = true) :
    Yields (pop .instruction sz) s (valueAt s sz s.activeSp) (popped sz s) :=
  (yields_look State.activeSp s).bind <| (yields_memRead _ hq h).bind <|
    (yields_setActiveSp (· + BitVec.ofNat 32 (bytesOf sz)) s).bind <| yields_pure _ _

/-! ### Operands (R160-R163) -/

theorem quiet_afterEa (hq : quiet s = true) (sz : Size) (ea : EA) :
    quiet (afterEa s sz ea) = true := by
  rwa [quiet, afterEa_handlers]

theorem flagX_afterEa (s : State) (sz : Size) (ea : EA) : (afterEa s sz ea).flagX = s.flagX := by
  rw [State.flagX, afterEa_sr, State.flagX]

theorem SameButBus.afterEa (h : SameButBus t u) (sz : Size) (ea : EA) :
    SameButBus (afterEa t sz ea) (afterEa u sz ea) := by
  cases ea with
  | postInc n =>
    simp only [Machine.afterEa, h.congr fun s => s.readA n]
    exact (h.writeA n _).skipWords _
  | preDec n =>
    simp only [Machine.afterEa, h.congr fun s => s.readA n]
    exact (h.writeA n _).skipWords _
  | _ => exact h.skipWords _

theorem yields_resolveEa (hq : quiet s = true) (hr : resolvable s sz ea = true) :
    Yields (resolveEa sz ea) s (locOf s sz ea) (afterEa s sz ea) := fun s' hs => by
  obtain ⟨u, e, b⟩ := sameButBus_resolveEa (s := s') (sz := sz) (ea := ea)
    ((hs.congr quiet).trans hq) ((hs.congr fun s => resolvable s sz ea).trans hr)
  exact ⟨u, e.trans (congrArg (EStateM.Result.ok · u) (hs.congr fun s => locOf s sz ea)),
    b.trans (hs.afterEa sz ea)⟩

/-- Reading an operand at the place it resolved to. -/
theorem yields_readLoc (hq : quiet s = true) (hr : readable s sz ea = true) :
    Yields (readLoc sz (locOf s sz ea)) (afterEa s sz ea) (operand s sz ea) (afterEa s sz ea) :=
  fun s' hs => by
    obtain ⟨u, e, b⟩ := sameButBus_readLoc hq hr hs
    exact ⟨u, e, b.trans hs⟩

theorem yields_source (hq : quiet s = true) (hr : readable s sz ea = true) :
    Yields (source sz ea) s (operand s sz ea) (afterEa s sz ea) :=
  (yields_resolveEa hq (Bool.and_eq_true_iff.1 hr).1).bind (yields_readLoc hq hr)

/-- Writing an operand at the place it resolved to, before anything else is stored. -/
theorem yields_writeLoc (hq : quiet s = true) (hw : writable s sz ea = true) (v : Long) :
    Yields (writeLoc sz (locOf s sz ea) v) (afterEa s sz ea) ()
      (putOperand s sz ea v (afterEa s sz ea)) := fun s' hs => by
  have hc : ea.inClass .alt = true := by
    simp only [writable, Bool.and_eq_true] at hw
    exact hw.1.2
  obtain ⟨u, e, b⟩ := sameButBus_writeLoc (sz := sz)
    ((hs.congr quiet).trans (quiet_afterEa hq sz ea)) hc (storable_of_writable hw hs) v
  exact ⟨u, e, b.trans (hs.putOperand s sz ea v)⟩

theorem resolvable_of_writable (hw : writable s sz ea = true) : resolvable s sz ea = true := by
  simp only [writable, Bool.and_eq_true] at hw
  exact hw.1.1

/-- The address of an operand of a mode that has one (R153, R200). -/
theorem yields_addrOf (hc : ea.inClass .ctrl = true) :
    Yields (addrOf (locOf s sz ea)) t (eaAddr s sz ea) t := by
  rw [locOf_of_ctrl hc]
  exact yields_pure _ t

end Sys2Proof.Machine
end

section
/-!
SUPPORT. MOVE and the operations on a whole address register (R201, R202, R253, R260, R266), and the
operations on registers alone (R203, R210, R211, R273, R274).
-/

namespace Sys2Proof.Machine

variable {s : State} {sz : Size} {ea : EA} {x : Reg}

/-! ### MOVE (R201) -/

theorem flagX_putOperand (s t : State) (sz : Size) (ea : EA) (v : Long) :
    (putOperand s sz ea v t).flagX = t.flagX := by
  cases ea with
  | areg n => simp only [putOperand, State.flagX, State.writeA_sr]
  | _ => rfl

/-- MOVE: the source is read before the destination is resolved (R201). -/
theorem yields_moveBody {src dst : EA} (hq : quiet s = true) (hr : readable s sz src = true)
    (hw : writable (afterEa s sz src) sz dst = true) :
    Yields (moveBody sz src dst) s (.completed (moveTime sz src dst))
      ((putOperand (afterEa s sz src) sz dst (operand s sz src)
        (afterEa (afterEa s sz src) sz dst)).setFlags
          (logicFlags s.flagX sz (operand s sz src))) := by
  have hp := quiet_afterEa hq sz src
  have hx : (putOperand (afterEa s sz src) sz dst (operand s sz src)
      (afterEa (afterEa s sz src) sz dst)).flagX = s.flagX := by
    rw [flagX_putOperand, flagX_afterEa, flagX_afterEa]
  rw [← hx]
  exact (yields_source hq hr).bind <|
    (yields_resolveEa hp (resolvable_of_writable hw)).bind <|
    (yields_writeLoc hp hw _).bind <| (yields_setLogic sz _ _).bind <| yields_pure _ _

/-- Settles O13: `yields_moveBody`, at each size. -/
theorem moveCopiesTheOperand : Obligations.MoveCopiesTheOperand := by
  unfold Obligations.MoveCopiesTheOperand
  intro s sz src dst i hq hi _ hr p hw
  simp only [List.mem_cons, Prod.mk.injEq, List.not_mem_nil, or_false] at hi
  obtain ⟨rfl, rfl⟩ | ⟨rfl, rfl⟩ | ⟨rfl, rfl⟩ := hi <;> exact (yields_moveBody hq hr hw).reaches

/-! ### Whole address registers (R202, R253, R260, R266) -/

theorem yields_moveaBody (hq : quiet s = true) (hr : readable s sz ea = true) :
    Yields (moveaBody sz ea x) s (.completed (moveTime sz ea (.areg x)))
      ((afterEa s sz ea).writeA x (sext sz (operand s sz ea))) :=
  (yields_source hq hr).bind <| (yields_storeA x _ _).bind <| yields_pure _ _

theorem yields_toAddrBody (op : Long → Long → Long) (hq : quiet s = true)
    (hr : readable s sz ea = true) :
    Yields (toAddrBody op sz x ea) s (.completed (toAddrTime sz ea))
      ((afterEa s sz ea).writeA x (op ((afterEa s sz ea).readA x) (sext sz (operand s sz ea)))) :=
  (yields_source hq hr).bind <| (yields_loadA x _).bind <| (yields_storeA x _ _).bind <|
    yields_pure _ _

theorem yields_cmpaBody (hq : quiet s = true) (hr : readable s sz ea = true) :
    Yields (cmpaBody sz x ea) s (.completed (cmpaTime sz ea))
      ((afterEa s sz ea).setFlags (keepX s.flagX
        (subFlags .l ((afterEa s sz ea).readA x) (sext sz (operand s sz ea)) false))) := by
  rw [← flagX_afterEa s sz ea]
  exact (yields_source hq hr).bind <| (yields_loadA x _).bind <|
    (yields_setFlagsFrom _ _).bind <| yields_pure _ _

/-- Settles O14: `yields_moveaBody`, `yields_toAddrBody` and `yields_cmpaBody`, at both sizes. -/
theorem addressRegisterOperations : Obligations.AddressRegisterOperations := by
  unfold Obligations.AddressRegisterOperations
  intro s x ea sz hq hsz hr p v
  have movea := (yields_moveaBody (x := x) hq hr).reaches
  have adda := (yields_toAddrBody (x := x) (· + ·) hq hr).reaches
  have suba := (yields_toAddrBody (x := x) (· - ·) hq hr).reaches
  have cmpa := (yields_cmpaBody (x := x) hq hr).reaches
  cases sz with
  | b => exact absurd rfl hsz
  | w | l => exact ⟨movea, adda, suba, cmpa⟩

/-! ### Registers alone (R203, R210, R211, R273, R274) -/

theorem sext_trunc (sz : Size) (v : Long) : sext sz (trunc sz v) = sext sz v := by
  cases sz <;> simp [sext, trunc]

/-- A byte sign-extended to a word, held as a long. -/
theorem trunc_word_sext_byte (v : Long) :
    trunc .w (sext .b v) = ((v.setWidth 8).signExtend 16).setWidth 32 := by
  have h : ((v.setWidth 8).signExtend 32).setWidth 16 = (v.setWidth 8).signExtend 16 := by
    ext i hi
    have h32 : i < 32 := by omega
    simp [BitVec.getElem_signExtend, h32]
  rw [trunc, sext, h]

theorem mergeLow_word (old : Long) (w : Word) :
    mergeLow .w old (w.setWidth 32) = old.extractLsb' 16 16 ++ w := by
  simp [mergeLow]

/-- EXT.W (R273). -/
theorem exec_extW (y : Reg) (s : State) (v : Word)
    (hv : v = ((s.readD y).setWidth 8).signExtend 16) :
    exec (.extW y) s = .next (completes (·.misc.ext)
      ((s.writeD y ((s.readD y).extractLsb' 16 16 ++ v)).setFlags
        (logicFlags s.flagX .w (v.setWidth 32)))) := by
  have hw : trunc .w (sext .b (trunc .b (s.readD y))) = v.setWidth 32 := by
    rw [sext_trunc, trunc_word_sext_byte, hv]
  rw [← mergeLow_word, ← hw]
  rfl

/-- EXT.L (R274). -/
theorem exec_extL (y : Reg) (s : State) :
    exec (.extL y) s = .next (completes (·.misc.ext)
      ((s.writeD y (sext .w (s.readD y))).setFlags
        (logicFlags s.flagX .l (sext .w (s.readD y))))) := by
  rw [← sext_trunc]
  rfl

/-- Settles O15: a meaning without an access or a free value runs by evaluation; `exec_extW` and
`exec_extL` put the results of the two extensions in the words of R273 and R274. -/
theorem registerOnlyMoves : Obligations.RegisterOnlyMoves := by
  unfold Obligations.RegisterOnlyMoves
  exact fun s x y d8 => ⟨rfl, rfl, rfl, rfl, rfl, exec_extW y s _ rfl, exec_extL y s⟩

end Sys2Proof.Machine
end

section
/-!
SUPPORT. LEA and PEA (R208, R209), and the stack frames of LINK and UNLK (R212, R213).
-/

namespace Sys2Proof.Machine

variable {s : State} {ea : EA} {y : Reg}

/-! ### LEA and PEA (R208, R209) -/

theorem reaches_lea (x : Reg) (hq : quiet s = true) (hc : ea.inClass .ctrl = true)
    (hr : resolvable s .l ea = true) : Reaches (exec (.lea x ea) s)
      (completes (leaTime ea) ((afterEa s .l ea).writeA x (eaAddr s .l ea))) :=
  Yields.reaches <| (yields_resolveEa hq hr).bind <| (yields_addrOf hc).bind <|
    (yields_storeA x _ _).bind <| yields_pure _ _

theorem reaches_pea (hq : quiet s = true) (hc : ea.inClass .ctrl = true)
    (hr : resolvable s .l ea = true)
    (hs : storable s (afterEa s .l ea).pc .l (s.activeSp - 4) = true) : Reaches (exec (.pea ea) s)
      (completes (peaTime ea) (pushed .l (eaAddr s .l ea) (afterEa s .l ea))) := by
  rw [← activeSp_afterEa hc s .l, ← storable_congr (afterEa_map s .l ea)] at hs
  exact Yields.reaches <| (yields_resolveEa hq hr).bind <| (yields_addrOf hc).bind <|
    (yields_push (quiet_afterEa hq .l ea) hs _).bind <| yields_pure _ _

/-- Settles O19: `reaches_lea` and `reaches_pea`. -/
theorem effectiveAddressInstructions : Obligations.EffectiveAddressInstructions := by
  unfold Obligations.EffectiveAddressInstructions
  exact fun s x ea hq hc hr => ⟨reaches_lea x hq hc hr, reaches_pea hq hc hr⟩

/-! ### LINK (R212) -/

theorem readA_setActiveSp_skipWords (n : Nat) (v : Long) (s : State) (y : Reg) :
    ((skipWords n s).setActiveSp v).readA y = (s.setActiveSp v).readA y := by
  rw [State.setActiveSp_eq, State.setActiveSp_eq]
  rfl

theorem quiet_setActiveSp (hq : quiet s = true) (v : Long) : quiet (s.setActiveSp v) = true := by
  rwa [quiet, State.setActiveSp_handlers]

/-- LINK: the register is read after A7 went down (R212). -/
theorem reaches_link (y : Reg) (hq : quiet s = true) (hf : fetchable s s.pc 1 = true)
    (hs : storable s (s.pc + 2) .l (s.activeSp - 4) = true) :
    let sp := s.activeSp - 4
    let p := (skipWords 1 s).setActiveSp sp
    let t := (putMem .l sp ((s.setActiveSp sp).readA y) p).writeA y sp
    Reaches (exec (.link y) s)
      (completes (·.misc.link) (t.setActiveSp (t.activeSp + (wordAt s s.pc).signExtend 32))) := by
  intro sp p t
  have hsp : p.activeSp = sp := State.activeSp_setActiveSp _ _
  have hp : storable p p.pc .l p.activeSp = true := by
    rw [storable_congr (State.setActiveSp_map _ _), State.setActiveSp_pc, hsp]
    exact hs
  have ht : t = (putMem .l p.activeSp (p.readA y) p).writeA y p.activeSp := by
    rw [hsp, readA_setActiveSp_skipWords]
  rw [ht]
  exact Yields.reaches <| (yields_fetchDisp hq hf).bind <| (yields_setActiveSp (· - 4) _).bind <|
    (yields_loadA y p).bind <| (yields_look State.activeSp p).bind <|
    (yields_memWrite (quiet_setActiveSp (s := skipWords 1 s) hq sp) hp _).bind <|
    (yields_storeA y _ _).bind <|
    (yields_setActiveSp (· + (wordAt s s.pc).signExtend 32) _).bind <| yields_pure _ _

/-! ### UNLK (R213) -/

theorem State.setActiveSp_setActiveSp (s : State) (v w : Long) :
    (s.setActiveSp v).setActiveSp w = s.setActiveSp w := by
  cases h : s.flagS <;> simp [State.setActiveSp, h] <;> simp_all [State.flagS]

theorem State.writeA_seven (s : State) (v : Long) : s.writeA 7 v = s.setActiveSp v := by
  simp [State.writeA]

theorem setActiveSp_draws (s : State) (n : Nat) (v : Long) :
    ({ s with draws := n } : State).setActiveSp v = { s.setActiveSp v with draws := n } := by
  rw [State.setActiveSp_eq, State.setActiveSp_eq]
  rfl

/-- A7 put at an address and a long popped from there. -/
theorem yields_popFrom {a : Long} (hq : quiet s = true) (h : accessible s .l a = true) :
    Yields (pop .instruction .l) (s.setActiveSp a) (valueAt s .l a) (s.setActiveSp (a + 4)) := by
  have hsp := State.activeSp_setActiveSp s a
  have hp := yields_pop (sz := .l) (quiet_setActiveSp hq a) (by
    rwa [hsp, accessible_congr (State.setActiveSp_map s a)])
  rwa [hsp, popped, hsp, State.setActiveSp_setActiveSp,
    valueAt_congr (State.setActiveSp_mem s a)] at hp

theorem reaches_unlk (hy : y ≠ 7) (hq : quiet s = true)
    (h : accessible s .l (s.readA y) = true) : Reaches (exec (.unlk y) s)
      (completes (·.misc.unlk)
        ((s.setActiveSp (s.readA y + 4)).writeA y (valueAt s .l (s.readA y)))) := by
  refine Yields.reaches <| (yields_loadA y s).bind <|
    (yields_setActiveSp (fun _ => s.readA y) s).bind <| (yields_popFrom hq h).bind ?_
  rw [if_neg hy]
  exact (yields_storeA y _ _).bind <| yields_pure _ _

/-- UNLK A7 ends with the popped long or that plus 4, a free choice (R213, log 2). -/
theorem reaches_unlk_seven (hq : quiet s = true) (h : accessible s .l (s.readA 7) = true) :
    let v := valueAt s .l (s.readA 7)
    let w := if Config.freeBit s.draws then v + 4 else v
    Reaches (exec (.unlk 7) s)
      (completes (·.misc.unlk) { s.setActiveSp w with draws := s.draws + 1 }) := by
  intro v w
  let q := s.setActiveSp (s.readA 7 + 4)
  have last : ({ q with draws := q.draws + 1 } : State).writeA 7 w =
      { s.setActiveSp w with draws := s.draws + 1 } := by
    rw [State.writeA_seven, setActiveSp_draws, State.setActiveSp_setActiveSp,
      State.setActiveSp_draws]
  have draws : q.draws = s.draws := State.setActiveSp_draws s _
  have choice : w = if Config.freeBit q.draws then v + 4 else v := by rw [draws]
  rw [← last, choice]
  exact Yields.reaches <| (yields_loadA 7 s).bind <|
    (yields_setActiveSp (fun _ => s.readA 7) s).bind <| (yields_popFrom hq h).bind <|
    (yields_drawBit q).bind <| (yields_storeA 7 _ _).bind <| yields_pure _ _

/-- Settles O20: `reaches_link`, `reaches_unlk` and `reaches_unlk_seven`. -/
theorem linkAndUnlink : Obligations.LinkAndUnlink := by
  unfold Obligations.LinkAndUnlink
  intro s y hq
  refine ⟨reaches_link y hq, fun h => ⟨fun hy => reaches_unlk hy hq h, fun hy => ?_⟩⟩
  subst hy
  refine ⟨_, ?_, reaches_unlk_seven hq h⟩
  split
  · exact .inr rfl
  · exact .inl rfl

end Sys2Proof.Machine
end

section
/-!
SUPPORT. MOVEP (R206, R207): the bytes at alternate addresses, gathered and scattered for any number
of them, and what the four and the two bytes of its forms make.
-/

namespace Sys2Proof.Machine

variable {s : State} {a : Long} {k : Nat} {x y : Reg}

theorem alternateAddr_zero (a : Long) : alternateAddr a 0 = a := BitVec.add_zero a

theorem alternateAddr_succ (a : Long) (j : Nat) :
    alternateAddr a (j + 1) = alternateAddr (a + 2) j := by
  rw [alternateAddr, Nat.mul_add, Nat.add_comm, BitVec.ofNat_add, ← BitVec.add_assoc]
  rfl

/-- A byte has no alignment and no second half. -/
theorem accessible_byte (s : State) (a : Long) : accessible s .b a = backed s a := by
  simp [accessible, misaligned]

theorem yields_movepAddr (y : Reg) (hq : quiet s = true) (hf : fetchable s s.pc 1 = true) :
    Yields (movepAddr y) s (s.readA y + (wordAt s s.pc).signExtend 32) (skipWords 1 s) :=
  (yields_fetchDisp hq hf).bind <| (yields_loadA y _).bind <| yields_pure _ _

/-! ### Bytes gathered (R206) -/

/-- The byte at an alternate address put below what was gathered before it. -/
def gatherByte (s : State) (a : Long) (acc : Long) (j : Nat) : Long :=
  acc <<< 8 ||| (s.mem.read (busAddr (alternateAddr a j)).toNat).setWidth 32

theorem gatherByte_zero (s : State) (a acc : Long) :
    gatherByte s a acc 0 = acc <<< 8 ||| valueAt s .b a := by
  rw [gatherByte, alternateAddr_zero, valueAt]

theorem gatherByte_succ (s : State) (a acc : Long) (j : Nat) :
    gatherByte s a acc (j + 1) = gatherByte s (a + 2) acc j := by
  rw [gatherByte, alternateAddr_succ, gatherByte]

theorem yields_readAlternate (hq : quiet s = true)
    (h : ∀ j, j < k → backed s (alternateAddr a j) = true) (acc : Long) :
    Yields (readAlternate k a acc) s ((List.range k).foldl (gatherByte s a) acc) s := by
  induction k generalizing a acc with
  | zero => exact yields_pure acc s
  | succ k ih =>
    have first := h 0 (Nat.succ_pos k)
    rw [alternateAddr_zero, ← accessible_byte] at first
    rw [List.range_succ_eq_map, List.foldl_cons, List.foldl_map, gatherByte_zero]
    simp only [gatherByte_succ]
    exact (yields_memRead .instruction hq first).bind <| ih
      (fun j hj => alternateAddr_succ a j ▸ h (j + 1) (Nat.succ_lt_succ hj)) _

/-- A byte put below a value is the value extended by that byte. -/
theorem shift_or_byte {w : Nat} (v : BitVec w) (b : Byte) :
    (v.setWidth 32 <<< 8 ||| b.setWidth 32 : Long) = (v ++ b).setWidth 32 := by
  ext i hi
  by_cases h : i < 8
  · simp [BitVec.getLsbD_append, h]
  · simp [BitVec.getLsbD_append, h, BitVec.getLsbD_of_ge b i (by omega)]

theorem gathered_two (s : State) (a : Long) :
    let byteAt := fun k => s.mem.read (busAddr (alternateAddr a k)).toNat
    (List.range 2).foldl (gatherByte s a) 0 = (byteAt 0 ++ byteAt 1).setWidth 32 := by
  simp [List.range_succ, gatherByte, shift_or_byte]

theorem gathered_four (s : State) (a : Long) :
    let byteAt := fun k => s.mem.read (busAddr (alternateAddr a k)).toNat
    (List.range 4).foldl (gatherByte s a) 0 =
      (byteAt 0 ++ byteAt 1) ++ (byteAt 2 ++ byteAt 3) := by
  intro byteAt
  have h : (List.range 4).foldl (gatherByte s a) 0 =
      byteAt 0 ++ byteAt 1 ++ byteAt 2 ++ byteAt 3 := by
    simp [List.range_succ, gatherByte, shift_or_byte, byteAt]
  exact h.trans BitVec.append_assoc

/-- MOVEP from memory (R206). -/
theorem yields_movepLoad {cost : Cost} (sz : Size) (x y : Reg) (hq : quiet s = true)
    (hf : fetchable s s.pc 1 = true) (h : ∀ j, j < k → backed s
      (alternateAddr (s.readA y + (wordAt s s.pc).signExtend 32) j) = true) :
    Yields (do
      let a ← movepAddr y
      let v ← readAlternate k a 0
      storeD sz x v
      pure (Done.completed cost)) s (.completed cost)
      ((skipWords 1 s).mergeD sz x ((List.range k).foldl
        (gatherByte s (s.readA y + (wordAt s s.pc).signExtend 32)) 0)) :=
  (yields_movepAddr y hq hf).bind <| (yields_readAlternate (s := skipWords 1 s) hq h 0).bind <|
    (yields_storeD sz x _ _).bind <| yields_pure _ _

/-! ### Bytes scattered (R207) -/

/-- A byte of a long stored at an alternate address, where `k` bytes are, the highest first. -/
def scatterByte (k : Nat) (a v : Long) (t : State) (j : Nat) : State :=
  putMem .b (alternateAddr a j) ((v.extractLsb' (8 * (k - 1 - j)) 8).setWidth 32) t

theorem scatterByte_succ (k : Nat) (a v : Long) (t : State) (j : Nat) :
    scatterByte (k + 1) a v t (j + 1) = scatterByte k (a + 2) v t j := by
  rw [scatterByte, alternateAddr_succ, show k + 1 - 1 - (j + 1) = k - 1 - j by omega, scatterByte]

theorem scatterByte_zero (k : Nat) (a v : Long) (t : State) :
    scatterByte (k + 1) a v t 0 = putMem .b a ((v >>> (8 * k)) &&& 0xFF) t := by
  have h : (v >>> (8 * k)) &&& 0xFF = (v.extractLsb' (8 * k) 8).setWidth 32 := by
    have mask : ∀ i (hi : i < 32), (0xFF : Long)[i] = decide (i < 8) := by decide
    ext i hi
    rw [BitVec.getElem_and, mask i hi]
    by_cases h : i < 8 <;> simp [h]
  rw [scatterByte, alternateAddr_zero, h]
  rfl

theorem yields_writeAlternate (hq : quiet s = true)
    (h : ∀ j, j < k → storable s s.pc .b (alternateAddr a j) = true) (v : Long) :
    Yields (writeAlternate k a v) s () ((List.range k).foldl (scatterByte k a v) s) := by
  induction k generalizing a s with
  | zero => exact yields_pure () s
  | succ k ih =>
    have first := h 0 (Nat.succ_pos k)
    rw [alternateAddr_zero] at first
    rw [List.range_succ_eq_map, List.foldl_cons, List.foldl_map, scatterByte_zero]
    simp only [scatterByte_succ]
    exact (yields_memWrite hq first _).bind <| ih (s := putMem .b a _ s) hq
      (fun j hj => alternateAddr_succ a j ▸ h (j + 1) (Nat.succ_lt_succ hj))

/-- MOVEP to memory (R207). -/
theorem yields_movepStore {cost : Cost} (x y : Reg) (hq : quiet s = true)
    (hf : fetchable s s.pc 1 = true) (h : ∀ j, j < k → storable s (skipWords 1 s).pc .b
      (alternateAddr (s.readA y + (wordAt s s.pc).signExtend 32) j) = true) :
    Yields (do
      let a ← movepAddr y
      let v ← loadD .l x
      writeAlternate k a v
      pure (Done.completed cost)) s (.completed cost)
      ((List.range k).foldl (scatterByte k (s.readA y + (wordAt s s.pc).signExtend 32) (s.readD x))
        (skipWords 1 s)) :=
  (yields_movepAddr y hq hf).bind <| (yields_loadD .l x _).bind <|
    (yields_writeAlternate (s := skipWords 1 s) hq h _).bind <| yields_pure _ _

/-- Settles O18: `yields_movepLoad` and `yields_movepStore`, with two and with four bytes. -/
theorem movepMovesAlternateBytes : Obligations.MovepMovesAlternateBytes := by
  unfold Obligations.MovepMovesAlternateBytes
  intro s x y hq hf
  refine ⟨fun h => ?_, fun h => ?_, fun h => ?_, fun h => ?_⟩
  · have r := (yields_movepLoad (cost := (·.misc.movepW)) .w x y hq hf h).reaches
    rw [gathered_two, State.mergeD, mergeLow_word] at r
    exact r
  · have r := (yields_movepLoad (cost := (·.misc.movepL)) .l x y hq hf h).reaches
    rw [gathered_four] at r
    exact r
  · exact (yields_movepStore (cost := (·.misc.movepW)) x y hq hf h).reaches
  · exact (yields_movepStore (cost := (·.misc.movepL)) x y hq hf h).reaches

end Sys2Proof.Machine
end

section
/-!
SUPPORT. Lists of values in memory and of registers (R204, R205): how `putList` and `loadList` go
on, what they leave, and that values stored at separate places may be stored in either order.
-/

namespace Sys2Proof.Machine

variable {s t u : State} {sz : Size} {a v : Long}

/-! ### The places of the elements -/

theorem elementAddr_zero (sz : Size) (a : Long) : elementAddr sz a 0 = a := by
  rw [elementAddr, Nat.zero_mul, BitVec.add_zero]

theorem elementAddr_succ (sz : Size) (a : Long) (k : Nat) :
    elementAddr sz a (k + 1) = elementAddr sz (a + BitVec.ofNat 32 (bytesOf sz)) k := by
  rw [elementAddr, Nat.add_mul, Nat.one_mul, Nat.add_comm, BitVec.ofNat_add, ← BitVec.add_assoc,
    elementAddr]

/-- The bus addresses of an element, counted from the first byte of the list. -/
theorem mem_bytesFrom_elementAddr {k : Nat} {b : Addr}
    (h : b ∈ bytesFrom (elementAddr sz a k) (bytesOf sz)) :
    ∃ i < bytesOf sz, b = busAddr a + BitVec.ofNat 24 (k * bytesOf sz + i) := by
  obtain ⟨i, hi, rfl⟩ := List.mem_map.1 h
  refine ⟨i, List.mem_range.1 hi, ?_⟩
  rw [elementAddr, busAddr_add, BitVec.ofNat_add, BitVec.add_assoc]
  congr 2
  simp [busAddr]

/-- Two elements of one list share no byte, as long as the list is shorter than the bus. -/
theorem disjoint_elements {j k : Nat} (hjk : j < k) (hk : k < 2 ^ 20) {b : Addr}
    (hb : b ∈ bytesFrom (elementAddr sz a j) (bytesOf sz)) :
    b ∉ bytesFrom (elementAddr sz a k) (bytesOf sz) := fun hc => by
  obtain ⟨i, hi, e⟩ := mem_bytesFrom_elementAddr hb
  obtain ⟨i', hi', e'⟩ := mem_bytesFrom_elementAddr hc
  have h := congrArg BitVec.toNat ((BitVec.add_right_inj _).1 (e.symm.trans e'))
  rw [BitVec.toNat_ofNat, BitVec.toNat_ofNat] at h
  cases sz <;> simp only [bytesOf] at hi hi' h <;> omega

/-! ### Stores at separate places -/

theorem wf_writeAll {m : Memory} (hm : m.wf = true) (l : List (Addr × Byte)) :
    (writeAll m l).wf = true := by
  induction l generalizing m with
  | nil => exact hm
  | cons p l ih => exact ih (Memory.wf_write p.2 hm p.1.isLt)

theorem writeAll_write {m : Memory} (hm : m.wf = true) {l : List (Addr × Byte)} {b : Addr}
    (hb : b ∉ l.map Prod.fst) (v : Byte) :
    writeAll (m.write b.toNat v) l = (writeAll m l).write b.toNat v := by
  induction l generalizing m with
  | nil => rfl
  | cons p l ih =>
    obtain ⟨hp, hl⟩ := not_or.1 (mt List.mem_cons.2 hb)
    have hne : b.toNat ≠ p.1.toNat := fun e => hp (BitVec.eq_of_toNat_eq e)
    show writeAll ((m.write b.toNat v).write p.1.toNat p.2) l = _
    rw [Memory.write_comm hm b.isLt p.1.isLt hne]
    exact ih (Memory.wf_write p.2 hm p.1.isLt) hl

theorem writeAll_comm {m : Memory} (hm : m.wf = true) {l k : List (Addr × Byte)}
    (h : ∀ b ∈ k.map Prod.fst, b ∉ l.map Prod.fst) :
    writeAll (writeAll m k) l = writeAll (writeAll m l) k := by
  induction k generalizing m with
  | nil => rfl
  | cons p k ih =>
    obtain ⟨hp, hk⟩ := List.forall_mem_cons.1 h
    show writeAll (writeAll (m.write p.1.toNat p.2) k) l = _
    rw [ih (Memory.wf_write p.2 hm p.1.isLt) hk, writeAll_write hm hp]
    rfl

theorem wf_putMem (hm : s.mem.wf = true) (sz : Size) (a v : Long) :
    (putMem sz a v s).mem.wf = true := wf_writeAll hm _

/-- Two elements of a list may be stored in either order. -/
theorem putMem_comm (hm : s.mem.wf = true) {j k : Nat} (hjk : j < k) (hk : k < 2 ^ 20)
    (v w : Long) :
    putMem sz (elementAddr sz a k) w (putMem sz (elementAddr sz a j) v s) =
      putMem sz (elementAddr sz a j) v (putMem sz (elementAddr sz a k) w s) := by
  have apart : ∀ b ∈ (storedBytes sz (elementAddr sz a j) v).map Prod.fst,
      b ∉ (storedBytes sz (elementAddr sz a k) w).map Prod.fst := by
    simp only [fst_storedBytes]
    exact fun b => disjoint_elements hjk hk
  exact congrArg (fun m => { s with mem := m }) (writeAll_comm hm apart)

/-! ### Values stored one after the other -/

theorem putList_cons (sz : Size) (a v : Long) (vs : List Long) (s : State) :
    putList sz a (v :: vs) s =
      putList sz (a + BitVec.ofNat 32 (bytesOf sz)) vs (putMem sz a v s) := by
  simp only [putList, List.zipIdx_cons, List.foldl_cons, Nat.zero_add, List.zipIdx_succ,
    List.foldl_map, elementAddr_zero, elementAddr_succ]

theorem putList_concat (sz : Size) (a v : Long) (vs : List Long) (s : State) :
    putList sz a (vs ++ [v]) s =
      putMem sz (elementAddr sz a vs.length) v (putList sz a vs s) := by
  simp [putList, List.zipIdx_append]

theorem wf_putList (hm : s.mem.wf = true) (sz : Size) (a : Long) (vs : List Long) :
    (putList sz a vs s).mem.wf = true := by
  induction vs generalizing a s with
  | nil => exact hm
  | cons v vs ih =>
    rw [putList_cons]
    exact ih (wf_putMem hm sz a v) _

/-- The last value of a list may be stored first. -/
theorem putList_putMem (hm : s.mem.wf = true) {vs : List Long} {k : Nat} (hvs : vs.length ≤ k)
    (hk : k < 2 ^ 20) (v : Long) : putList sz a vs (putMem sz (elementAddr sz a k) v s) =
      putMem sz (elementAddr sz a k) v (putList sz a vs s) := by
  induction vs using List.reverseRecOn with
  | nil => rfl
  | append_singleton vs w ih =>
    rw [List.length_append, List.length_singleton] at hvs
    rw [putList_concat, putList_concat, ih (by omega),
      putMem_comm (wf_putList hm sz a vs) (by omega) hk]

/-! ### Registers loaded one after the other -/

theorem State.writeR_eq (s : State) (i : Fin 16) (v : Long) :
    ∃ d a usp ssp, s.writeR i v = { s with d := d, a := a, usp := usp, ssp := ssp } := by
  unfold State.writeR
  split
  · exact ⟨_, _, _, _, rfl⟩
  · exact ⟨_, _, _, _, State.writeA_eq s _ v⟩

theorem SameButBus.writeR (h : SameButBus t u) (i : Fin 16) (v : Long) :
    SameButBus (t.writeR i v) (u.writeR i v) := by
  unfold State.writeR
  split
  · exact h.writeD _ v
  · exact h.writeA _ v

theorem loadList_cons (s : State) (sz : Size) (a : Long) (r : Fin 16) (rs : List (Fin 16))
    (t : State) : loadList s sz a (r :: rs) t =
      loadList s sz (a + BitVec.ofNat 32 (bytesOf sz)) rs
        (t.writeR r (sext sz (valueAt s sz a))) := by
  simp only [loadList, List.zipIdx_cons, List.foldl_cons, Nat.zero_add, List.zipIdx_succ,
    List.foldl_map, elementAddr_zero, elementAddr_succ]

/-- Loading registers changes nothing but registers. -/
theorem loadList_eq (s : State) (sz : Size) (a : Long) (rs : List (Fin 16)) (t : State) :
    ∃ d a' usp ssp, loadList s sz a rs t = { t with d := d, a := a', usp := usp, ssp := ssp } := by
  induction rs generalizing a t with
  | nil => exact ⟨_, _, _, _, rfl⟩
  | cons r rs ih =>
    obtain ⟨_, _, _, _, h⟩ := t.writeR_eq r (sext sz (valueAt s sz a))
    rw [loadList_cons, h]
    exact ih _ _

end Sys2Proof.Machine
end

section
/-!
SUPPORT. MOVEM (R204, R205): what its loops store and load, and its two forms in each direction.
-/

namespace Sys2Proof.Machine

variable {s t : State} {sz : Size} {ea : EA} {a : Long} {mask : Word} {is : List (Fin 16)}

/-- The registers of a mask in a part of the list of them; in the whole list, `maskRegs`. -/
def listedRegs (mask : Word) (is : List (Fin 16)) : List (Fin 16) :=
  is.filter fun i => mask.getLsbD i.val

theorem listedRegs_of_mem {i : Fin 16} (h : mask.getLsbD i.val = true) (is : List (Fin 16)) :
    listedRegs mask (i :: is) = i :: listedRegs mask is :=
  List.filter_cons_of_pos (p := fun i : Fin 16 => mask.getLsbD i.val) h

theorem listedRegs_of_not_mem {i : Fin 16} (h : ¬mask.getLsbD i.val = true)
    (is : List (Fin 16)) : listedRegs mask (i :: is) = listedRegs mask is :=
  List.filter_cons_of_neg (p := fun i : Fin 16 => mask.getLsbD i.val) h

theorem length_listedRegs (mask : Word) (is : List (Fin 16)) :
    (listedRegs mask is).length = listed mask is := List.countP_eq_length_filter.symm

theorem maskCount_le (mask : Word) : maskCount mask ≤ 16 :=
  listed_maskOrder mask ▸ List.countP_le_length

/-! ### Stores (R204) -/

/-- The loop of the control modes stores the listed registers upwards. -/
theorem yields_storeUp (hq : quiet s = true)
    (h : ∀ k, k < listed mask is → storable s s.pc sz (elementAddr sz a k) = true) :
    Yields (storeUp mask sz is a) s (elementAddr sz a (listed mask is))
      (putList sz a ((listedRegs mask is).map fun i => trunc sz (s.readR i)) s) := by
  induction is generalizing s a with
  | nil =>
    show Yields (pure a) s (elementAddr sz a 0) s
    rw [elementAddr_zero]
    exact yields_pure a s
  | cons i is ih =>
    unfold storeUp
    split
    · next hi =>
      rw [listed_of_mem hi] at h ⊢
      have first := h 0 (Nat.succ_pos _)
      rw [elementAddr_zero] at first
      rw [listedRegs_of_mem hi, List.map_cons, putList_cons, elementAddr_succ]
      exact (yields_look (fun s => trunc sz (s.readR i)) s).bind <|
        (yields_memWrite hq first _).bind <| ih (s := putMem sz a _ s) hq
          fun k hk => elementAddr_succ sz a k ▸ h (k + 1) (Nat.succ_lt_succ hk)
    · next hi =>
      rw [listed_of_not_mem hi] at h ⊢
      rw [listedRegs_of_not_mem hi]
      exact ih hq h

/-- The lowest of `n` elements that end below an address. -/
def lowest (sz : Size) (a : Long) (n : Nat) : Long := a - BitVec.ofNat 32 (n * bytesOf sz)

theorem lowest_zero (sz : Size) (a : Long) : lowest sz a 0 = a := by
  rw [lowest, Nat.zero_mul, BitVec.sub_zero]

theorem lowest_succ (sz : Size) (a : Long) (n : Nat) :
    lowest sz (a - BitVec.ofNat 32 (bytesOf sz)) n = lowest sz a (n + 1) := by
  rw [lowest, lowest, Nat.add_mul, Nat.one_mul, Nat.add_comm, BitVec.ofNat_add, sub_sub]

/-- The highest of the elements is the one right below the address. -/
theorem elementAddr_lowest (sz : Size) (a : Long) (n : Nat) :
    elementAddr sz (lowest sz a (n + 1)) n = a - BitVec.ofNat 32 (bytesOf sz) := by
  rw [← lowest_succ, elementAddr, lowest, BitVec.sub_add_cancel]

/-- The predecrement loop stores the listed registers downwards; as their places are separate, that
is the list of them stored upwards from the lowest. -/
theorem yields_storeDown (hq : quiet s = true) (hm : s.mem.wf = true)
    (hn : listed mask is ≤ 16) (h : ∀ k, k < listed mask is →
      storable s s.pc sz (elementAddr sz (lowest sz a (listed mask is)) k) = true) :
    Yields (storeDown mask sz is a) s (lowest sz a (listed mask is))
      (putList sz (lowest sz a (listed mask is))
        ((listedRegs mask is).map fun i => trunc sz (s.readR i.rev)).reverse s) := by
  induction is generalizing s a with
  | nil =>
    show Yields (pure a) s (lowest sz a 0) (putList sz (lowest sz a 0) [] s)
    rw [lowest_zero]
    exact yields_pure a s
  | cons i is ih =>
    unfold storeDown
    split
    · next hi =>
      rw [listed_of_mem hi] at h hn ⊢
      let below := a - BitVec.ofNat 32 (bytesOf sz)
      have top : elementAddr sz (lowest sz a (listed mask is + 1)) (listed mask is) = below :=
        elementAddr_lowest sz a _
      have first : storable s s.pc sz below = true := top ▸ h _ (Nat.lt_succ_self _)
      have rest := ih (a := below) (s := putMem sz below (trunc sz (s.readR i.rev)) s) hq
        (wf_putMem hm sz _ _) (by omega)
        (fun k hk => lowest_succ sz a _ ▸ h k (Nat.lt_succ_of_lt hk))
      rw [lowest_succ] at rest
      rw [listedRegs_of_mem hi, List.map_cons, List.reverse_cons, putList_concat,
        List.length_reverse, List.length_map, length_listedRegs, ← putList_putMem hm (by
          rw [List.length_reverse, List.length_map, length_listedRegs]) (by omega), top]
      exact (yields_look (fun s => trunc sz (s.readR i.rev)) s).bind <|
        (yields_memWrite hq first _).bind rest
    · next hi =>
      rw [listed_of_not_mem hi] at h hn ⊢
      rw [listedRegs_of_not_mem hi]
      exact ih hq hm hn h

/-- A mask read from A7 to D0 names its registers in the reverse of the order from D0 to A7. -/
theorem reverse_listedRegs (mask : Word) (f : Fin 16 → Long) :
    ((listedRegs mask maskOrder).map fun i => f i.rev).reverse =
      (maskOrder.filter fun k => mask.getLsbD (15 - k.val)).map f := by
  have e : listedRegs mask maskOrder =
      ((maskOrder.filter fun k => mask.getLsbD (15 - k.val)).map Fin.rev).reverse := calc
    listedRegs mask maskOrder =
        (maskOrder.reverse.map Fin.rev).filter fun i => mask.getLsbD i.val := rfl
    _ = _ := by
      rw [List.filter_map, List.filter_reverse, List.map_reverse]
      simp only [Function.comp_def, Fin.val_rev, Nat.reduceSubDiff]
  rw [e]
  simp [Function.comp_def]

theorem ctrl_of_movemRM (h : ea.inClass .movemRM = true) (hp : ∀ r, ea ≠ .preDec r) :
    ea.inClass .ctrl = true := by
  cases ea with
  | ind n | disp n | index n | absW | absL => rfl
  | preDec r => exact absurd rfl (hp r)
  | _ => cases h

theorem movemStoreBody_preDec (sz : Size) (r : Reg) : movemStoreBody sz (.preDec r) = (do
    let mask ← fetchWord
    let start ← loadA r
    let a ← storeDown mask sz maskOrder start
    storeA r a
    pure (.completed (movemTime false sz (.preDec r) (maskCount mask)))) := rfl

theorem movemStoreBody_ctrl (sz : Size) (hp : ∀ r, ea ≠ .preDec r) : movemStoreBody sz ea = (do
    let mask ← fetchWord
    let loc ← resolveEa sz ea
    let start ← addrOf loc
    let _ ← storeUp mask sz maskOrder start
    pure (.completed (movemTime false sz ea (maskCount mask)))) := by
  cases ea with
  | preDec r => exact absurd rfl (hp r)
  | _ => rfl

theorem storableList_iff {pc : Long} {n : Nat} : storableList s pc sz a n = true ↔
    ∀ k, k < n → storable s pc sz (elementAddr sz a k) = true := by
  simp [storableList]

/-- MOVEM to memory through a predecremented register, which is written at the end (R204). -/
theorem reaches_movemStore_preDec (r : Reg) (hq : quiet s = true) (hm : s.mem.wf = true)
    (hf : fetchable s s.pc 1 = true) (hmask : mask = wordAt s s.pc)
    (h : storableList s (skipWords 1 s).pc sz (lowest sz (s.readA r) (maskCount mask))
      (maskCount mask) = true) :
    Reaches (perform (movemStoreBody sz (.preDec r)) s)
      (completes (movemTime false sz (.preDec r) (maskCount mask))
        ((putList sz (lowest sz (s.readA r) (maskCount mask))
          ((maskOrder.filter fun k => mask.getLsbD (15 - k.val)).map fun k => trunc sz (s.readR k))
          (skipWords 1 s)).writeA r (lowest sz (s.readA r) (maskCount mask)))) := by
  subst hmask
  have loop := yields_storeDown (s := skipWords 1 s) (mask := wordAt s s.pc) (is := maskOrder)
    (a := s.readA r) (sz := sz) hq hm
  rw [listed_maskOrder, reverse_listedRegs _ fun k => trunc sz ((skipWords 1 s).readR k)] at loop
  rw [movemStoreBody_preDec]
  exact Yields.reaches <| (yields_fetchWord hq hf).bind <| (yields_loadA r _).bind <|
    (loop (maskCount_le _) (storableList_iff.1 h)).bind <| (yields_storeA r _ _).bind <|
    yields_pure _ _

/-- In a mode with an address and no side effect nothing but pc moves (R160). -/
theorem afterEa_of_ctrl (hc : ea.inClass .ctrl = true) (s : State) (sz : Size) :
    afterEa s sz ea = skipWords (extWords sz ea) s := by
  cases ea with
  | postInc n | preDec n => cases hc
  | _ => rfl

/-- MOVEM to memory in a control mode (R204). -/
theorem reaches_movemStore_ctrl (hq : quiet s = true) (hc : ea.inClass .movemRM = true)
    (hp : ∀ r, ea ≠ .preDec r) (hf : fetchable s s.pc 1 = true) (hmask : mask = wordAt s s.pc)
    (hr : resolvable (skipWords 1 s) sz ea = true)
    (h : storableList s (afterEa (skipWords 1 s) sz ea).pc sz (eaAddr (skipWords 1 s) sz ea)
      (maskCount mask) = true) :
    Reaches (perform (movemStoreBody sz ea) s)
      (completes (movemTime false sz ea (maskCount mask))
        (putList sz (eaAddr (skipWords 1 s) sz ea)
          ((maskRegs mask).map fun k => trunc sz (s.readR k))
          (afterEa (skipWords 1 s) sz ea))) := by
  subst hmask
  have hctrl := ctrl_of_movemRM hc hp
  rw [afterEa_of_ctrl hctrl] at h ⊢
  have loop := yields_storeUp (s := skipWords (extWords sz ea) (skipWords 1 s)) (sz := sz)
    (mask := wordAt s s.pc) (is := maskOrder) (a := eaAddr (skipWords 1 s) sz ea) hq
  rw [listed_maskOrder] at loop
  rw [movemStoreBody_ctrl sz hp]
  have resolve := yields_resolveEa (s := skipWords 1 s) hq hr
  rw [afterEa_of_ctrl hctrl] at resolve
  exact Yields.reaches <| (yields_fetchWord hq hf).bind <| resolve.bind <|
    (yields_addrOf hctrl).bind <| (loop (storableList_iff.1 h)).bind <| yields_pure _ _

/-- Settles O16: `reaches_movemStore_preDec` and `reaches_movemStore_ctrl`. -/
theorem movemStoresRegisters : Obligations.MovemStoresRegisters := by
  unfold Obligations.MovemStoresRegisters
  intro s sz ea hq hm hsz hc hf mask s1 n i
  have hi : exec i s = perform (movemStoreBody sz ea) s := by
    cases sz with
    | b => exact absurd rfl hsz
    | w | l => rfl
  rw [hi]
  refine ⟨fun r hr => ?_, fun hp hr => ?_⟩
  · subst hr
    exact reaches_movemStore_preDec r hq hm hf rfl
  · exact reaches_movemStore_ctrl hq hc hp hf rfl hr

/-! ### Loads (R205) -/

theorem yields_readAtLoc (loc : Loc) (hq : quiet s = true) (h : accessible s sz a = true) :
    Yields (readAtLoc loc sz a) s (valueAt s sz a) s := by
  cases loc with
  | pcMem b => exact yields_memReadPc hq h
  | _ => exact yields_memRead .instruction hq h

theorem yields_movemDummyRead (loc : Loc) (hq : quiet s = true)
    (h : s.cfg.dummyReads = true → accessible s .w a = true) :
    Yields (movemDummyRead loc a) s () s := by
  refine (yields_look State.cfg s).bind ?_
  by_cases hd : s.cfg.dummyReads = true
  · rw [if_pos hd]
    exact (yields_readAtLoc loc hq (h hd)).bind <| yields_pure _ _
  · rw [if_neg hd]
    exact yields_pure _ _

/-- The loop loads the listed registers, one after the other, from memory as it was in `s`. -/
theorem yields_loadUp (loc : Loc) (hq : quiet t = true) (hm : t.mem = s.mem) (hp : t.map = s.map)
    (h : ∀ k, k < listed mask is → accessible s sz (elementAddr sz a k) = true) :
    Yields (loadUp mask sz loc is a) t (elementAddr sz a (listed mask is))
      (loadList s sz a (listedRegs mask is) t) := by
  induction is generalizing t a with
  | nil =>
    show Yields (pure a) t (elementAddr sz a 0) t
    rw [elementAddr_zero]
    exact yields_pure a t
  | cons i is ih =>
    unfold loadUp
    split
    · next hi =>
      rw [listed_of_mem hi] at h ⊢
      have first := h 0 (Nat.succ_pos _)
      rw [elementAddr_zero, ← accessible_congr hp] at first
      rw [listedRegs_of_mem hi, loadList_cons, elementAddr_succ, ← valueAt_congr hm]
      have rest := fun {t} hq hm hp => ih (t := t) (a := a + BitVec.ofNat 32 (bytesOf sz)) hq hm hp
        fun k hk => elementAddr_succ sz a k ▸ h (k + 1) (Nat.succ_lt_succ hk)
      refine (yields_readAtLoc loc hq first).bind <|
        (yields_update fun _ hs => hs.writeR i _).bind ?_
      obtain ⟨_, _, _, _, e⟩ := t.writeR_eq i (sext sz (valueAt t sz a))
      rw [e]
      exact rest hq hm hp
    · next hi =>
      rw [listed_of_not_mem hi] at h ⊢
      rw [listedRegs_of_not_mem hi]
      exact ih hq hm hp h

theorem ctrl_of_movemMR (h : ea.inClass .movemMR = true) (hp : ∀ r, ea ≠ .postInc r) :
    ea.inClass .ctrl = true := by
  cases ea with
  | ind n | disp n | index n | absW | absL | pcDisp | pcIndex => rfl
  | postInc r => exact absurd rfl (hp r)
  | _ => cases h

theorem movemLoadBody_postInc (sz : Size) (r : Reg) : movemLoadBody sz (.postInc r) = (do
    let mask ← fetchWord
    let start ← loadA r
    let a ← loadUp mask sz (.mem start) maskOrder start
    movemDummyRead (.mem start) a
    storeA r a
    pure (.completed (movemTime true sz (.postInc r) (maskCount mask)))) := rfl

theorem movemLoadBody_ctrl (sz : Size) (hp : ∀ r, ea ≠ .postInc r) : movemLoadBody sz ea = (do
    let mask ← fetchWord
    let loc ← resolveEa sz ea
    let start ← addrOf loc
    let a ← loadUp mask sz loc maskOrder start
    movemDummyRead loc a
    pure (.completed (movemTime true sz ea (maskCount mask)))) := by
  cases ea with
  | postInc r => exact absurd rfl (hp r)
  | _ => rfl

theorem readableList_iff {n : Nat} : readableList s sz a n = true ↔
    ∀ k, k < n → accessible s sz (elementAddr sz a k) = true := by
  simp [readableList]

/-- All the registers of a mask loaded, and the extra read of DUMMY_READS after them. -/
theorem yields_loadMask {f : Long → Exec Done} {done : Done} {u : State} (loc : Loc)
    (hq : quiet t = true) (hm : t.mem = s.mem) (hp : t.map = s.map) (hcfg : t.cfg = s.cfg)
    (h : readableList s sz a (maskCount mask) = true)
    (hd : s.cfg.dummyReads = true → accessible s .w (elementAddr sz a (maskCount mask)) = true)
    (hf : Yields (f (elementAddr sz a (maskCount mask))) (loadList s sz a (maskRegs mask) t)
      done u) :
    Yields (do
      let b ← loadUp mask sz loc maskOrder a
      movemDummyRead loc b
      f b) t done u := by
  have loop := yields_loadUp (sz := sz) (a := a) (mask := mask) (is := maskOrder) loc hq hm hp
  rw [listed_maskOrder] at loop
  have dummy : Yields (movemDummyRead loc (elementAddr sz a (maskCount mask)))
      (loadList s sz a (maskRegs mask) t) () (loadList s sz a (maskRegs mask) t) := by
    obtain ⟨_, _, _, _, e⟩ := loadList_eq s sz a (maskRegs mask) t
    rw [e]
    exact yields_movemDummyRead loc hq fun hdt => (accessible_congr hp _ _).trans (hd (hcfg ▸ hdt))
  exact (loop (readableList_iff.1 h)).bind <| dummy.bind hf

/-- MOVEM to registers through a postincremented register, which is written at the end (R205). -/
theorem reaches_movemLoad_postInc (r : Reg) (hq : quiet s = true)
    (hf : fetchable s s.pc 1 = true) (hmask : mask = wordAt s s.pc)
    (h : readableList s sz (s.readA r) (maskCount mask) = true)
    (hd : s.cfg.dummyReads = true →
      accessible s .w (elementAddr sz (s.readA r) (maskCount mask)) = true) :
    Reaches (perform (movemLoadBody sz (.postInc r)) s)
      (completes (movemTime true sz (.postInc r) (maskCount mask))
        ((loadList s sz (s.readA r) (maskRegs mask) (skipWords 1 s)).writeA r
          (elementAddr sz (s.readA r) (maskCount mask)))) := by
  subst hmask
  rw [movemLoadBody_postInc]
  exact Yields.reaches <| (yields_fetchWord hq hf).bind <| (yields_loadA r _).bind <|
    yields_loadMask (t := skipWords 1 s) _ hq rfl rfl rfl h hd <| (yields_storeA r _ _).bind <|
    yields_pure _ _

/-- MOVEM to registers in a control mode (R205). -/
theorem reaches_movemLoad_ctrl (hq : quiet s = true) (hc : ea.inClass .movemMR = true)
    (hp : ∀ r, ea ≠ .postInc r) (hf : fetchable s s.pc 1 = true) (hmask : mask = wordAt s s.pc)
    (hr : resolvable (skipWords 1 s) sz ea = true)
    (h : readableList s sz (eaAddr (skipWords 1 s) sz ea) (maskCount mask) = true)
    (hd : s.cfg.dummyReads = true →
      accessible s .w (elementAddr sz (eaAddr (skipWords 1 s) sz ea) (maskCount mask)) = true) :
    Reaches (perform (movemLoadBody sz ea) s)
      (completes (movemTime true sz ea (maskCount mask))
        (loadList s sz (eaAddr (skipWords 1 s) sz ea) (maskRegs mask)
          (afterEa (skipWords 1 s) sz ea))) := by
  subst hmask
  have hctrl := ctrl_of_movemMR hc hp
  have resolve := yields_resolveEa (s := skipWords 1 s) hq hr
  rw [afterEa_of_ctrl hctrl] at resolve ⊢
  rw [movemLoadBody_ctrl sz hp]
  exact Yields.reaches <| (yields_fetchWord hq hf).bind <| resolve.bind <|
    (yields_addrOf hctrl).bind <|
    yields_loadMask (t := skipWords (extWords sz ea) (skipWords 1 s)) _ hq rfl rfl rfl h hd <|
    yields_pure _ _

/-- Settles O17: `reaches_movemLoad_postInc` and `reaches_movemLoad_ctrl`. -/
theorem movemLoadsRegisters : Obligations.MovemLoadsRegisters := by
  unfold Obligations.MovemLoadsRegisters
  intro s sz ea hq hsz hc hf mask s1 n i
  have hi : exec i s = perform (movemLoadBody sz ea) s := by
    cases sz with
    | b => exact absurd rfl hsz
    | w | l => rfl
  rw [hi]
  refine ⟨fun r hr => ?_, fun hp hr => ?_⟩
  · subst hr
    exact reaches_movemLoad_postInc r hq hf rfl
  · exact reaches_movemLoad_ctrl hq hc hp hf rfl hr

end Sys2Proof.Machine
end

section
/-!
SUPPORT. What the arithmetic and logical instructions share: the operations of R250 and R320 on
values, a read-modify-write operand (R164), immediates (R155), the operands of the forms that step
address registers (R257, R268), and the end in a group 2 exception (R517).
-/

namespace Sys2Proof.Machine

variable {s t u : State} {sz : Size} {ea : EA} {n : Reg}

/-! ### Flags and values -/

/-- Resolving an operand changes no condition code. -/
theorem flags_afterEa (s : State) (sz : Size) (ea : EA) : (afterEa s sz ea).flags = s.flags := by
  simp only [State.flags, State.flagX, State.flagN, State.flagZ, State.flagV, State.flagC,
    afterEa_sr]

theorem readD_afterEa (s : State) (sz : Size) (ea : EA) (x : Reg) :
    (afterEa s sz ea).readD x = s.readD x := by
  cases ea <;> simp [afterEa, State.readD]

/-- No condition code chooses an address register (R42). -/
theorem readA_setFlags (s : State) (f : Flags) (n : Reg) : (s.setFlags f).readA n = s.readA n :=
  readA_of_flagsOnly (flagsOnly_setFlagsFrom fun _ => f) n rfl

theorem draws_afterEa (s : State) (sz : Size) (ea : EA) : (afterEa s sz ea).draws = s.draws := by
  cases ea <;> simp [afterEa]

theorem msbOf_trunc (sz : Size) (v : Long) : msbOf sz (trunc sz v) = msbOf sz v := by
  rw [msbOf_eq, trunc_trunc, msbOf_eq]

theorem signedOf_trunc (sz : Size) (v : Long) : signedOf sz (trunc sz v) = signedOf sz v := by
  rw [signedOf, sext_trunc, signedOf]

theorem trunc_setWidth {w : Nat} (hw : w ≤ bitsOf sz) (v : BitVec w) :
    trunc sz (v.setWidth 32) = v.setWidth 32 :=
  BitVec.eq_of_getLsbD_eq fun k hk => by
    rw [trunc_getLsbD, BitVec.getLsbD_setWidth]
    split
    · rfl
    · rw [BitVec.getLsbD_of_ge v k (by omega), Bool.and_false]

theorem trunc_valueAt (s : State) (sz : Size) (a : Long) :
    trunc sz (valueAt s sz a) = valueAt s sz a := by
  cases sz with
  | b | w => exact trunc_setWidth (by decide) _
  | l => rfl

theorem trunc_immAt (s : State) (sz : Size) : trunc sz (immAt s sz) = immAt s sz := by
  cases sz with
  | b | w => exact trunc_setWidth (by decide) _
  | l => rfl

/-- An operand is a value of its size (R163). -/
theorem trunc_operand (s : State) (sz : Size) (ea : EA) :
    trunc sz (operand s sz ea) = operand s sz ea := by
  cases ea with
  | dreg n | areg n => exact trunc_trunc sz _
  | imm => exact trunc_immAt s sz
  | _ => exact trunc_valueAt s sz _

/-! ### Operations (R250, R320, R400) -/

/-- Condition codes computed from those of an earlier state that none has been written since. -/
theorem yields_setFlagsFrom_of (f : Flags → Flags) (h : t.flags = s.flags) :
    Yields (setFlagsFrom f) t () (t.setFlags (f s.flags)) := h ▸ yields_setFlagsFrom f t

theorem yields_addOp (sz : Size) (d v : Long) (s : State) :
    Yields (addOp sz d v) s (addValue sz d v false) (s.setFlags (addFlags sz d v false)) :=
  (yields_setFlagsFrom _ s).bind (yields_pure _ _)

theorem yields_subOp (sz : Size) (d v : Long) (s : State) :
    Yields (subOp sz d v) s (subValue sz d v false) (s.setFlags (subFlags sz d v false)) :=
  (yields_setFlagsFrom _ s).bind (yields_pure _ _)

theorem yields_logicOp (sz : Size) (r : Long) (h : t.flags = s.flags) :
    Yields (logicOp sz r) t r (t.setFlags (logicFlags s.flagX sz r)) :=
  (yields_setFlagsFrom_of _ h).bind (yields_pure r _)

theorem yields_cmpOp (sz : Size) (d v : Long) (h : t.flags = s.flags) :
    Yields (cmpOp sz d v) t () (t.setFlags { subFlags sz d v false with x := s.flagX }) :=
  yields_setFlagsFrom_of _ h

theorem yields_addXOp (sz : Size) (d v : Long) (h : t.flags = s.flags) :
    Yields (addXOp sz d v) t (addValue sz d v s.flagX) (t.setFlags
      { addFlags sz d v s.flagX with
        z := decide (addValue sz d v s.flagX = 0) && s.flagZ }) := by
  have hx : t.flagX = s.flagX := congrArg Flags.x h
  rw [← hx]
  exact (yields_look State.flagX t).bind <| (yields_setFlagsFrom_of _ h).bind <| yields_pure _ _

theorem yields_subXOp (sz : Size) (d v : Long) (h : t.flags = s.flags) :
    Yields (subXOp sz d v) t (subValue sz d v s.flagX) (t.setFlags
      { subFlags sz d v s.flagX with
        z := decide (subValue sz d v s.flagX = 0) && s.flagZ }) := by
  have hx : t.flagX = s.flagX := congrArg Flags.x h
  rw [← hx]
  exact (yields_look State.flagX t).bind <| (yields_setFlagsFrom_of _ h).bind <| yields_pure _ _

/-- The flags of a decimal operation in the words of R400-R406. -/
theorem bcdFlags_eq (old : Flags) (op : BcdOp) (v d : Byte) :
    bcdFlags old op v d =
      { x := (bcdResult op v d old.x).2, n := (Config.bcdNV op v d old.x).1,
        z := decide ((bcdResult op v d old.x).1 = 0) && old.z,
        v := (Config.bcdNV op v d old.x).2, c := (bcdResult op v d old.x).2 } := by
  rw [bcdFlags, Bool.and_comm]
  rfl

theorem yields_bcdOp (op : BcdOp) (d v : Long) (h : t.flags = s.flags) :
    Yields (bcdOp op d v) t
      ((bcdResult op (v.setWidth 8) (d.setWidth 8) s.flagX).1.setWidth 32)
      (t.setFlags (bcdFlags s.flags op (v.setWidth 8) (d.setWidth 8))) := by
  have hx : t.flagX = s.flagX := congrArg Flags.x h
  rw [← hx]
  exact (yields_look State.flagX t).bind <| (yields_setFlagsFrom_of _ h).bind <| yields_pure _ _

/-! ### Operands -/

/-- An operand that can be written can be read (R163). -/
theorem readable_of_writable (hw : writable s sz ea = true) : readable s sz ea = true := by
  simp only [writable, readable, storable, Bool.and_eq_true, Bool.or_eq_true] at hw ⊢
  obtain ⟨⟨hr, -⟩, hs⟩ := hw
  exact ⟨hr, hs.imp_right And.left⟩

/-- Writing an operand at the place it resolved to, the condition codes being written before. -/
theorem yields_writeLoc_setFlags (hq : quiet s = true) (hw : writable s sz ea = true) (f : Flags)
    (v : Long) :
    Yields (writeLoc sz (locOf s sz ea) v) ((afterEa s sz ea).setFlags f) ()
      (putOperand s sz ea v ((afterEa s sz ea).setFlags f)) := fun s' hs => by
  have hc : ea.inClass .alt = true := by
    simp only [writable, Bool.and_eq_true] at hw
    exact hw.1.2
  have hp (hm : inMemory ea = true) := storable_of_writable hw (.refl (afterEa s sz ea)) hm
  obtain ⟨u, e, b⟩ := sameButBus_writeLoc (sz := sz)
    ((hs.congr quiet).trans (quiet_afterEa hq sz ea)) hc
    (fun hm => (hs.congr fun t => storable t t.pc sz (eaAddr s sz ea)).trans (hp hm)) v
  exact ⟨u, e, b.trans (hs.putOperand s sz ea v)⟩

/-- The extra read of DUMMY_READS at the place an operand resolved to (R125). -/
theorem yields_dummyRead (hq : quiet s = true) (hw : writable s sz ea = true) :
    Yields (dummyRead sz (locOf s sz ea)) (afterEa s sz ea) () (afterEa s sz ea) := fun s' hs => by
  obtain ⟨u, e, b⟩ := sameButBus_dummyRead (sz := sz) (loc := locOf s sz ea)
    ((hs.congr quiet).trans (quiet_afterEa hq sz ea)) fun a ha => by
      obtain ⟨hm, rfl⟩ := locOf_mem ha
      exact (Bool.and_eq_true_iff.1 (storable_of_writable hw hs hm)).1
  exact ⟨u, e, b.trans hs⟩

/-- A read-modify-write operand (R164): resolved once, read, and replaced in its own place. -/
theorem yields_modify {op : Long → Exec Long} {f : Flags} {r : Long} (hq : quiet s = true)
    (hw : writable s sz ea = true)
    (hop : Yields (op (operand s sz ea)) (afterEa s sz ea) r ((afterEa s sz ea).setFlags f)) :
    Yields (modify sz ea op) s () (putOperand s sz ea r ((afterEa s sz ea).setFlags f)) :=
  (yields_resolveEa hq (resolvable_of_writable hw)).bind <|
    (yields_readLoc hq (readable_of_writable hw)).bind <| hop.bind <|
    yields_writeLoc_setFlags hq hw f r

/-- The register is read after the operand is resolved, and is what it was before. -/
theorem yields_loadD_afterEa {width : Size} (s : State) (sz : Size) (ea : EA) (x : Reg) :
    Yields (loadD width x) (afterEa s sz ea) (trunc width (s.readD x)) (afterEa s sz ea) := by
  rw [← readD_afterEa s sz ea x]
  exact yields_loadD width x _

theorem yields_immediate (hq : quiet s = true) (h : fetchable s s.pc (immWords sz) = true) :
    Yields (immediate sz) s (immAt s sz) (skipWords (immWords sz) s) := yields_of fun fc calls =>
  sameButBus_immediate (s := { s with fc := fc, calls := calls }) hq h

/-! ### Operands that step an address register -/

theorem afterEa_preDec (s : State) (sz : Size) (n : Reg) :
    afterEa s sz (.preDec n) = s.writeA n (s.readA n - stepOf n sz) := skipWords_zero _

theorem afterEa_postInc (s : State) (sz : Size) (n : Reg) :
    afterEa s sz (.postInc n) = s.writeA n (s.readA n + stepOf n sz) := skipWords_zero _

theorem readA_afterEa_preDec (s : State) (sz : Size) (n : Reg) :
    (afterEa s sz (.preDec n)).readA n = eaAddr s sz (.preDec n) := by
  rw [afterEa_preDec, State.readA_writeA, if_pos rfl]
  rfl

/-- The place of a readable operand in memory is accessible. -/
theorem accessible_of_readable (hr : readable s sz ea = true) (hm : inMemory ea = true) :
    accessible s sz (eaAddr s sz ea) = true := by
  simpa [hm] using (Bool.and_eq_true_iff.1 hr).2

/-- An address register stepped by an amount. -/
theorem yields_stepA (f : Long → Long) (n : Reg) (s : State) :
    Yields (update fun s => s.writeA n (f (s.readA n))) s () (s.writeA n (f (s.readA n))) :=
  yields_update fun s' hs => by
    rw [hs.congr fun s => s.readA n]
    exact hs.writeA n _

/-- Predecrement, then the read (R257): an operand of mode `-(An)`. -/
theorem yields_readPreDec (hq : quiet s = true) (hr : readable s sz (.preDec n) = true) :
    Yields (readPreDec sz n) s (operand s sz (.preDec n)) (afterEa s sz (.preDec n)) := by
  have hread := yields_memRead (s := afterEa s sz (.preDec n)) .instruction (quiet_afterEa hq sz _)
    ((accessible_congr (afterEa_map s sz _) sz _).trans (accessible_of_readable hr rfl))
  rw [valueAt_congr (afterEa_mem s sz _), ← readA_afterEa_preDec] at hread
  have hstep := yields_stepA (· - stepOf n sz) n s
  rw [← afterEa_preDec] at hstep
  show Yields _ s (valueAt s sz (eaAddr s sz (.preDec n))) _
  rw [← readA_afterEa_preDec]
  exact hstep.bind <| (yields_loadA n _).bind hread

/-- The read, then the postincrement (R268): an operand of mode `(An)+`. -/
theorem yields_readPostInc (hq : quiet s = true) (hr : readable s sz (.postInc n) = true) :
    Yields (readPostInc sz n) s (operand s sz (.postInc n)) (afterEa s sz (.postInc n)) := by
  rw [afterEa_postInc]
  exact (yields_loadA n s).bind <|
    (yields_memRead .instruction hq (accessible_of_readable hr rfl)).bind <|
    (yields_stepA (· + stepOf n sz) n s).bind <| yields_pure _ _

/-! ### Group 2 exceptions -/

/-- A body that raises a group 2 exception is an instruction that takes it, the next instruction's
address stacked (R511, R517). -/
theorem Yields.traps {body : Exec Done} {v : Byte} {cost : Cost}
    (h : Yields body s (.group2 v cost) u) (hq : quiet u = true) (hc : canEnter v u = true) :
    Reaches (perform body s) (traps v cost u) := by
  obtain ⟨t, e, b⟩ := h s (.refl s)
  obtain ⟨fc, calls, rfl⟩ := sameButBus_iff.1 b
  obtain ⟨x, ex, bx⟩ := sameButBus_exceptionEntry (s := { u with fc := fc, calls := calls }) hq hc
    u.pc none
  refine ⟨finish .group2 cost x, ?_, ?_⟩
  · rw [perform_group2 e, takeException, ex]
  · have hb : SameButBus x (atHandler v u.pc none u) := bx.trans <|
      (b.map (atHandler v u.pc none) fun s _ _ => ?_)
    · exact hb.map (finish .group2 cost)
    · simp only [atHandler, pushed, State.setActiveSp_eq]
      rfl

end Sys2Proof.Machine
end

section
/-!
SUPPORT. The operations from an operand to a data register (R251, R258, R321, R324), the compares
and TST (R265, R267-R269).
-/

namespace Sys2Proof.Machine

variable {s : State} {sz : Size} {ea : EA} {x y : Reg}

/-! ### Operations to a data register (R251, R258, R321, R324) -/

/-- An operation from an operand to a data register: the source is read first (R251). -/
theorem reaches_toRegBody {op : Size → Long → Long → Exec Long} (cost : Cost) {f : Flags} {r : Long}
    (hq : quiet s = true) (hr : readable s sz ea = true)
    (hop : Yields (op sz (trunc sz (s.readD x)) (operand s sz ea)) (afterEa s sz ea) r
      ((afterEa s sz ea).setFlags f)) :
    Reaches (perform (toRegBody op sz x ea cost) s)
      (completes cost (((afterEa s sz ea).setFlags f).mergeD sz x r)) :=
  Yields.reaches <| (yields_source hq hr).bind <| (yields_loadD_afterEa s sz ea x).bind <|
    hop.bind <| (yields_storeD sz x r _).bind <| yields_pure _ _

/-- Settles O21: `reaches_toRegBody` with each operation; ADD and SUB have a row of their own for
bytes. -/
theorem operandToDataRegister : Obligations.OperandToDataRegister := by
  unfold Obligations.OperandToDataRegister
  intro s x sz ea hq hr p v d ends
  have flags : p.flags = s.flags := flags_afterEa s sz ea
  have add := reaches_toRegBody (toRegTime sz ea) hq hr (yields_addOp sz d v p)
  have sub := reaches_toRegBody (toRegTime sz ea) hq hr (yields_subOp sz d v p)
  have and := reaches_toRegBody (op := andOp) (logicRegTime sz ea) hq hr
    (yields_logicOp sz (d &&& v) flags)
  have or := reaches_toRegBody (op := orOp) (logicRegTime sz ea) hq hr
    (yields_logicOp sz (d ||| v) flags)
  cases sz <;> exact ⟨add, sub, and, or⟩

/-! ### Compares and TST (R265, R267-R269) -/

theorem reaches_cmpBody (hq : quiet s = true) (hr : readable s sz ea = true) :
    Reaches (perform (cmpBody sz x ea) s) (completes (cmpTime sz ea) ((afterEa s sz ea).setFlags
      { subFlags sz (trunc sz (s.readD x)) (operand s sz ea) false with x := s.flagX })) :=
  Yields.reaches <| (yields_source hq hr).bind <| (yields_loadD_afterEa s sz ea x).bind <|
    (yields_cmpOp sz _ _ (flags_afterEa s sz ea)).bind <| yields_pure _ _

theorem reaches_tst (hq : quiet s = true) (hr : readable s sz ea = true) :
    Reaches (exec (.tst sz ea) s) (completes (tstTime sz ea)
      ((afterEa s sz ea).setFlags (logicFlags s.flagX sz (operand s sz ea)))) :=
  Yields.reaches <| (yields_source hq hr).bind <|
    (yields_setFlagsFrom_of _ (flags_afterEa s sz ea)).bind <| yields_pure _ _

/-- CMPI: the immediate, then the operand (R267). -/
theorem reaches_cmpi (hq : quiet s = true) (hf : fetchable s s.pc (immWords sz) = true)
    (hr : readable (skipWords (immWords sz) s) sz ea = true) :
    Reaches (exec (.cmpi sz ea) s) (completes (cmpiTime sz ea)
      ((afterEa (skipWords (immWords sz) s) sz ea).setFlags
        { subFlags sz (operand (skipWords (immWords sz) s) sz ea) (immAt s sz) false with
          x := s.flagX })) :=
  Yields.reaches <| (yields_immediate hq hf).bind <|
    (yields_source (s := skipWords (immWords sz) s) hq hr).bind <|
    (yields_cmpOp sz _ _ (flags_afterEa (skipWords (immWords sz) s) sz ea)).bind <| yields_pure _ _

/-- CMPM: the source, then the destination, each stepped after its read (R268). -/
theorem reaches_cmpm (hq : quiet s = true) (hy : readable s sz (.postInc y) = true)
    (hx : readable (afterEa s sz (.postInc y)) sz (.postInc x) = true) :
    Reaches (exec (.cmpm x sz y) s) (completes (cmpmTime sz)
      ((afterEa (afterEa s sz (.postInc y)) sz (.postInc x)).setFlags
        { subFlags sz (operand (afterEa s sz (.postInc y)) sz (.postInc x))
            (operand s sz (.postInc y)) false with x := s.flagX })) :=
  Yields.reaches <| (yields_readPostInc hq hy).bind <|
    (yields_readPostInc (quiet_afterEa hq sz _) hx).bind <|
    (yields_cmpOp sz _ _ ((flags_afterEa _ sz _).trans (flags_afterEa s sz _))).bind <|
    yields_pure _ _

/-- Settles O22: `reaches_cmpBody`, `reaches_tst`, `reaches_cmpi` and `reaches_cmpm`; CMP has a row
of its own for bytes. -/
theorem comparesAndTest : Obligations.ComparesAndTest := by
  unfold Obligations.ComparesAndTest
  intro s x y sz ea hq
  refine ⟨fun hr => ⟨?_, reaches_tst hq hr⟩, fun hf => reaches_cmpi hq hf, fun hy =>
    reaches_cmpm hq hy⟩
  have cmp := reaches_cmpBody (x := x) hq hr
  cases sz <;> exact cmp

end Sys2Proof.Machine
end

section
/-!
SUPPORT. The operations that read an operand and write their result in its place (R164): from a data
register, from an immediate, from a quick field, and those on the operand alone.
-/

namespace Sys2Proof.Machine

variable {s : State} {sz : Size} {ea : EA} {x : Reg} {op : Size → Long → Long → Exec Long}
  {cost : Cost} {f : Flags} {r : Long}

/-! ### From a data register (R252, R259, R322, R325, R327) -/

/-- An operation from a data register to an operand (R252). -/
theorem reaches_toMemBody (hq : quiet s = true) (hw : writable s sz ea = true)
    (hop : Yields (op sz (operand s sz ea) (trunc sz (s.readD x))) (afterEa s sz ea) r
      ((afterEa s sz ea).setFlags f)) :
    Reaches (perform (toMemBody op sz x ea cost) s)
      (completes cost (putOperand s sz ea r ((afterEa s sz ea).setFlags f))) :=
  Yields.reaches <| (yields_modify hq hw ((yields_loadD_afterEa s sz ea x).bind hop)).bind <|
    yields_pure _ _

/-- Settles O23: `reaches_toMemBody` with each operation. -/
theorem dataRegisterToOperand : Obligations.DataRegisterToOperand := by
  unfold Obligations.DataRegisterToOperand
  intro s x sz ea hq _ hw p d v ends
  have logic (r : Long) := yields_logicOp sz r (flags_afterEa s sz ea)
  exact ⟨reaches_toMemBody (op := eorOp) hq hw (logic _), fun _ =>
    ⟨reaches_toMemBody hq hw (yields_addOp sz d v p),
      reaches_toMemBody hq hw (yields_subOp sz d v p),
      reaches_toMemBody (op := andOp) hq hw (logic _),
      reaches_toMemBody (op := orOp) hq hw (logic _)⟩⟩

/-! ### From an immediate (R254, R261, R323, R326, R328) -/

/-- An operation from an immediate to an operand: the immediate comes first (R254). -/
theorem reaches_immBody (hq : quiet s = true) (hf : fetchable s s.pc (immWords sz) = true)
    (hw : writable (skipWords (immWords sz) s) sz ea = true)
    (hop : Yields (op sz (operand (skipWords (immWords sz) s) sz ea) (immAt s sz))
      (afterEa (skipWords (immWords sz) s) sz ea) r
      ((afterEa (skipWords (immWords sz) s) sz ea).setFlags f)) :
    Reaches (perform (immBody op sz ea cost) s)
      (completes cost (putOperand (skipWords (immWords sz) s) sz ea r
        ((afterEa (skipWords (immWords sz) s) sz ea).setFlags f))) :=
  Yields.reaches <| (yields_immediate hq hf).bind <|
    (yields_modify (s := skipWords (immWords sz) s) hq hw hop).bind <| yields_pure _ _

/-- Settles O24: `reaches_immBody` with each operation. -/
theorem immediateToOperand : Obligations.ImmediateToOperand := by
  unfold Obligations.ImmediateToOperand
  intro s sz ea hq _ hf s1 hw p d v ends
  have logic (r : Long) : Yields (logicOp sz r) p r (p.setFlags (logicFlags s.flagX sz r)) :=
    yields_logicOp sz r (flags_afterEa s1 sz ea)
  exact ⟨reaches_immBody hq hf hw (yields_addOp sz d v p),
    reaches_immBody hq hf hw (yields_subOp sz d v p),
    reaches_immBody (op := andOp) hq hf hw (logic _),
    reaches_immBody (op := orOp) hq hf hw (logic _),
    reaches_immBody (op := eorOp) hq hf hw (logic _)⟩

/-! ### From a quick field (R255, R262) -/

/-- A quick operation on an operand that is no address register. -/
theorem quickBody_dalt {addrOp : Long → Long → Long} (q : Reg) (hc : ea.inClass .dalt = true) :
    quickBody op addrOp q sz ea = (do
      modify sz ea fun d => op sz d (quickValue q)
      pure (.completed (quickTime sz ea))) := by
  cases ea with
  | areg n => cases hc
  | _ => rfl

theorem reaches_quickBody {addrOp : Long → Long → Long} (q : Reg) (hq : quiet s = true)
    (hc : ea.inClass .dalt = true) (hw : writable s sz ea = true)
    (hop : Yields (op sz (operand s sz ea) (quickValue q)) (afterEa s sz ea) r
      ((afterEa s sz ea).setFlags f)) :
    Reaches (perform (quickBody op addrOp q sz ea) s)
      (completes (quickTime sz ea) (putOperand s sz ea r ((afterEa s sz ea).setFlags f))) := by
  rw [quickBody_dalt q hc]
  exact Yields.reaches <|
    (yields_modify (op := fun d => op sz d (quickValue q)) hq hw hop).bind <| yields_pure _ _

/-- Settles O25: to an address register by evaluation, to another operand by `reaches_quickBody`;
ADDQ and SUBQ have a row of their own for bytes. -/
theorem quickArithmetic : Obligations.QuickArithmetic := by
  unfold Obligations.QuickArithmetic
  intro s q sz ea v
  refine ⟨fun n _ => ⟨rfl, rfl⟩, ?_⟩
  intro hq hc hw p d
  have add := reaches_quickBody (addrOp := (· + ·)) q hq hc hw (yields_addOp sz d v p)
  have sub := reaches_quickBody (addrOp := (· - ·)) q hq hc hw (yields_subOp sz d v p)
  cases sz <;> exact ⟨add, sub⟩

/-! ### The operand alone (R270-R272, R329, R405) -/

/-- An operation on one operand, in its own place (R164). -/
theorem reaches_unary {op : Long → Exec Long} (hq : quiet s = true) (hw : writable s sz ea = true)
    (hop : Yields (op (operand s sz ea)) (afterEa s sz ea) r ((afterEa s sz ea).setFlags f)) :
    Reaches (perform (do modify sz ea op; pure (.completed cost)) s)
      (completes cost (putOperand s sz ea r ((afterEa s sz ea).setFlags f))) :=
  Yields.reaches <| (yields_modify hq hw hop).bind <| yields_pure _ _

/-- C and X of a negation are set unless the operand is 0 (R270). -/
theorem subFlags_zero {d : Long} (hd : trunc sz d = d) :
    subFlags sz 0 d false =
      { subFlags sz 0 d false with c := decide (d ≠ 0), x := decide (d ≠ 0) } := by
  have h0 : (trunc sz 0).toNat = 0 := by rw [trunc_toNat]; exact Nat.zero_mod _
  have hc : decide ((trunc sz 0).toNat < (trunc sz d).toNat + false.toNat) = decide (d ≠ 0) := by
    rw [h0, hd, decide_eq_decide, Nat.pos_iff_ne_zero]
    exact not_congr (BitVec.toNat_inj (y := 0))
  simp only [subFlags, hc]

theorem logicFlags_trunc (old : Bool) (sz : Size) (r : Long) :
    logicFlags old sz (trunc sz r) = logicFlags old sz r := by
  simp only [logicFlags, msbOf_trunc, trunc_trunc]

theorem logicFlags_zero (old : Bool) (sz : Size) :
    logicFlags old sz 0 = { x := old, n := false, z := true, v := false, c := false } := by
  cases sz <;> rfl

theorem setFlags_putOperand (hc : ea.inClass .dalt = true) (s t : State) (v : Long) :
    (putOperand s sz ea v t).setFlags f = putOperand s sz ea v (t.setFlags f) := by
  cases ea with
  | areg n => cases hc
  | _ => rfl

/-- CLR: the operand is resolved, and not read but by the extra read of R125 (R272). -/
theorem reaches_clr (hq : quiet s = true) (hc : ea.inClass .dalt = true)
    (hw : writable s sz ea = true) :
    Reaches (exec (.clr sz ea) s) (completes (unaryTime sz ea) (putOperand s sz ea 0
      ((afterEa s sz ea).setFlags
        { x := s.flagX, n := false, z := true, v := false, c := false }))) := by
  have hx : (putOperand s sz ea 0 (afterEa s sz ea)).flagX = s.flagX := by
    rw [flagX_putOperand, flagX_afterEa]
  rw [← setFlags_putOperand hc, ← logicFlags_zero _ sz, ← hx]
  exact Yields.reaches <| (yields_resolveEa hq (resolvable_of_writable hw)).bind <|
    (yields_dummyRead hq hw).bind <| (yields_writeLoc hq hw 0).bind <|
    (yields_setLogic sz 0 _).bind <| yields_pure _ _

/-- Settles O28: `reaches_unary` with each operation, and `reaches_clr`. -/
theorem unaryOperations : Obligations.UnaryOperations := by
  unfold Obligations.UnaryOperations
  intro s sz ea hq hc hw p d ends
  have flags : p.flags = s.flags := flags_afterEa s sz ea
  refine ⟨?_, reaches_unary hq hw (yields_subXOp sz 0 d flags), ?_, reaches_clr hq hc hw, ?_⟩
  · rw [← subFlags_zero (trunc_operand s sz ea)]
    exact reaches_unary hq hw (yields_subOp sz 0 d p)
  · rw [← logicFlags_trunc]
    exact reaches_unary hq hw (yields_logicOp sz _ flags)
  · rintro rfl
    have nbcd := reaches_unary (cost := nbcdTime ea) (op := fun d => bcdOp .nbcd d 0) hq hw
      (yields_bcdOp .nbcd d 0 flags)
    rw [bcdFlags_eq] at nbcd
    exact nbcd

end Sys2Proof.Machine
end

section
/-!
SUPPORT. The extended and the decimal operations on two registers and on two places below address
registers (R256, R257, R263, R264, R401-R404).
-/

namespace Sys2Proof.Machine

variable {s : State} {sz : Size} {x y : Reg} {f : Flags} {r : Long}

/-! ### On data registers (R256, R263, R401, R403) -/

theorem setWidth_trunc_byte (v : Long) : (trunc .b v).setWidth 8 = v.setWidth 8 :=
  BitVec.setWidth_setWidth_of_le _ (by decide)

/-- A decimal operation on registers completes in every state (R401, R403). -/
theorem perform_bcdRegBody (op : BcdOp) (x y : Reg) (s : State) :
    perform (bcdRegBody op x y) s = .next (completes (·.extended.bcdReg)
      ((s.setFlags (bcdFlags s.flags op ((s.readD y).setWidth 8) ((s.readD x).setWidth 8))).mergeD
        .b x ((bcdResult op ((s.readD y).setWidth 8) ((s.readD x).setWidth 8)
          s.flagX).1.setWidth 32))) := by
  rw [← setWidth_trunc_byte (s.readD x), ← setWidth_trunc_byte (s.readD y)]
  rfl

/-- Settles O26: ADDX and SUBX, without an access or a free value, by evaluation; the decimal forms
by `perform_bcdRegBody`. -/
theorem extendedRegisterForms : Obligations.ExtendedRegisterForms := by
  unfold Obligations.ExtendedRegisterForms
  intro s x y sz d v db vb ends
  refine ⟨rfl, rfl, fun op hop => ?_⟩
  have h := perform_bcdRegBody op x y s
  rw [bcdFlags_eq] at h
  cases op with
  | nbcd => exact absurd rfl hop
  | abcd | sbcd => exact h

/-! ### On memory (R257, R264, R402, R404) -/

/-- After the predecrement the register holds the place of the operand (R161). -/
theorem yields_loadA_preDec (s : State) (sz : Size) (n : Reg) (f : Flags) :
    Yields (loadA n) ((afterEa s sz (.preDec n)).setFlags f) (eaAddr s sz (.preDec n))
      ((afterEa s sz (.preDec n)).setFlags f) := by
  rw [← readA_afterEa_preDec, ← readA_setFlags _ f]
  exact yields_loadA n _

/-- An operation on the two places below address registers, the source first: the result is stored
at the second, where the register stands (R257). -/
theorem yields_preDecPair {op : Long → Long → Exec Long} {done : Done} (hq : quiet s = true)
    (hr : readable s sz (.preDec y) = true)
    (hw : writable (afterEa s sz (.preDec y)) sz (.preDec x) = true)
    (hop : Yields
      (op (operand (afterEa s sz (.preDec y)) sz (.preDec x)) (operand s sz (.preDec y)))
      (afterEa (afterEa s sz (.preDec y)) sz (.preDec x)) r
      ((afterEa (afterEa s sz (.preDec y)) sz (.preDec x)).setFlags f)) :
    Yields (do
        let v ← readPreDec sz y
        let d ← readPreDec sz x
        let r ← op d v
        let a ← loadA x
        memWrite .instruction sz a r
        pure done) s done
      (putOperand (afterEa s sz (.preDec y)) sz (.preDec x) r
        ((afterEa (afterEa s sz (.preDec y)) sz (.preDec x)).setFlags f)) := by
  have hp := quiet_afterEa hq sz (.preDec y)
  exact (yields_readPreDec hq hr).bind <|
    (yields_readPreDec hp (readable_of_writable hw)).bind <| hop.bind <|
    (yields_loadA_preDec _ sz x f).bind <| (yields_writeLoc_setFlags hp hw f r).bind <|
    yields_pure _ _

/-- Settles O27: `yields_preDecPair` with each operation. -/
theorem extendedMemoryForms : Obligations.ExtendedMemoryForms := by
  unfold Obligations.ExtendedMemoryForms
  intro s x y sz hq hr p q v d hw
  have flags : q.flags = s.flags := (flags_afterEa p sz _).trans (flags_afterEa s sz _)
  refine ⟨(yields_preDecPair hq hr hw (yields_addXOp sz d v flags)).reaches,
    (yields_preDecPair hq hr hw (yields_subXOp sz d v flags)).reaches, ?_⟩
  rintro rfl op hop
  have h := (yields_preDecPair (done := .completed (·.extended.bcdMem)) hq hr hw
    (yields_bcdOp op d v flags)).reaches
  rw [bcdFlags_eq] at h
  cases op with
  | nbcd => exact absurd rfl hop
  | abcd | sbcd => exact h

end Sys2Proof.Machine
end

section
/-!
SUPPORT. Products and quotients as numbers (R275-R278).
-/

namespace Sys2Proof.Machine

/-! ### Products (R275, R276) -/

theorem word_toNat_lt (v : Long) : (trunc .w v).toNat < 2 ^ 16 := trunc_lt .w v

/-- A signed word is in its range. -/
theorem signedOf_word_bounds (v : Long) : -2 ^ 15 ≤ signedOf .w v ∧ signedOf .w v < 2 ^ 15 := by
  have h : signedOf .w v = (v.setWidth 16).toInt := BitVec.toInt_signExtend_of_le (by decide)
  rw [h]
  exact ⟨BitVec.le_toInt _, BitVec.toInt_lt⟩

theorem muluValue_toNat (d s : Long) :
    (muluValue d s).toNat = (trunc .w d).toNat * (trunc .w s).toNat := by
  have h := Nat.mul_lt_mul'' (word_toNat_lt d) (word_toNat_lt s)
  rw [muluValue, BitVec.toNat_mul, Nat.mod_eq_of_lt (by omega)]

theorem mulsValue_toInt (d s : Long) : (mulsValue d s).toInt = signedOf .w d * signedOf .w s := by
  have ⟨hd, hd'⟩ := signedOf_word_bounds d
  have ⟨hs, hs'⟩ := signedOf_word_bounds s
  have hb : |signedOf .w d * signedOf .w s| ≤ 2 ^ 15 * 2 ^ 15 := by
    rw [abs_mul]
    exact mul_le_mul (abs_le.2 ⟨hd, hd'.le⟩) (abs_le.2 ⟨hs, hs'.le⟩) (abs_nonneg _) (by decide)
  have ⟨hl, hu⟩ := abs_le.1 hb
  rw [mulsValue, BitVec.toInt_ofInt_eq_self (by decide) (by omega) (by omega)]

/-! ### Quotients (R277, R278) -/

theorem word_toNat_pos {s : Word} (hs : s ≠ 0) : 0 < s.toNat :=
  Nat.pos_of_ne_zero fun h => hs (BitVec.eq_of_toNat_eq h)

/-- DIVU: quotient and remainder of the division of naturals. -/
theorem divuResult_some {d : Long} {s rem q : Word} (hs : s ≠ 0)
    (h : divuResult d s = some (rem, q)) :
    q.toNat = d.toNat / s.toNat ∧ rem.toNat = d.toNat % s.toNat := by
  have hpos := word_toNat_pos hs
  have hmod := Nat.mod_lt d.toNat hpos
  have hlt := s.isLt
  unfold divuResult at h
  dsimp only at h
  split at h
  · cases h
  · cases h
    rw [BitVec.toNat_ofNat, BitVec.toNat_ofNat]
    exact ⟨Nat.mod_eq_of_lt (by omega), Nat.mod_eq_of_lt (by omega)⟩

theorem divuResult_none {d : Long} {s : Word} (hs : s ≠ 0) :
    divuResult d s = none ↔ 0x10000 * s.toNat ≤ d.toNat := by
  rw [← Nat.le_div_iff_mul_le (word_toNat_pos hs)]
  unfold divuResult
  dsimp only
  split
  · next h => exact iff_of_true rfl h
  · next h => exact iff_of_false nofun h

theorem word_toInt_ne_zero {s : Word} (hs : s ≠ 0) : s.toInt ≠ 0 :=
  fun h => hs (BitVec.eq_of_toInt_eq h)

/-- A remainder is smaller than the divisor. -/
theorem natAbs_tmod_lt (a : Int) {b : Int} (hb : b ≠ 0) : (a.tmod b).natAbs < b.natAbs := by
  rw [Int.natAbs_tmod]
  exact Nat.mod_lt _ (Int.natAbs_pos.2 hb)

/-- A remainder that is not zero has the sign of the dividend. -/
theorem tmod_sign (a b : Int) : a.tmod b = 0 ∨ (a.tmod b < 0 ↔ a < 0) := by
  rcases Int.lt_or_le a 0 with ha | ha
  · have h : (-a).tmod b = -(a.tmod b) := Int.neg_tmod a b
    have := Int.tmod_nonneg b (a := -a) (by omega)
    omega
  · have := Int.tmod_nonneg b ha
    omega

/-- DIVS: quotient and remainder of the division of integers that truncates toward zero. -/
theorem divsResult_some {d : Long} {s rem q : Word} (hs : s ≠ 0)
    (h : divsResult d s = some (rem, q)) :
    q.toInt = d.toInt.tdiv s.toInt ∧ rem.toInt = d.toInt.tmod s.toInt := by
  have hmod := natAbs_tmod_lt d.toInt (word_toInt_ne_zero hs)
  have hlow := BitVec.le_toInt s
  have hup := BitVec.toInt_lt (x := s)
  have hrem : d.toInt - d.toInt.tdiv s.toInt * s.toInt = d.toInt.tmod s.toInt := by
    rw [Int.tmod_def, Int.mul_comm]
  unfold divsResult at h
  dsimp only at h
  split at h
  · cases h
  · cases h
    rw [hrem]
    exact ⟨BitVec.toInt_ofInt_eq_self (by decide) (by omega) (by omega),
      BitVec.toInt_ofInt_eq_self (by decide) (by omega) (by omega)⟩

theorem divsResult_none (d : Long) (s : Word) :
    divsResult d s = none ↔ d.toInt.tdiv s.toInt < -32768 ∨ 32767 < d.toInt.tdiv s.toInt := by
  unfold divsResult
  dsimp only
  split
  · next h => exact iff_of_true rfl h
  · next h => exact iff_of_false nofun h

/-- Settles O7: the four values as numbers, and the division identities of naturals and integers. -/
theorem multiplyAndDivide : Obligations.MultiplyAndDivide := by
  unfold Obligations.MultiplyAndDivide
  refine ⟨muluValue_toNat, mulsValue_toInt, fun d s rem q hs h => ?_, fun d s hs =>
    divuResult_none hs, fun d s rem q hs h => ?_, fun d s _ => divsResult_none d s⟩
  · obtain ⟨hq, hr⟩ := divuResult_some hs h
    rw [hq, hr]
    exact ⟨(Nat.div_add_mod' _ _).symm, Nat.mod_lt _ (word_toNat_pos hs)⟩
  · obtain ⟨hq, hr⟩ := divsResult_some hs h
    have hz : rem = 0 ↔ rem.toInt = 0 := BitVec.toInt_inj (y := 0) |>.symm
    rw [hz, hq, hr]
    exact ⟨(Int.tdiv_mul_add_tmod _ _).symm, natAbs_tmod_lt _ (word_toInt_ne_zero hs),
      tmod_sign _ _⟩

end Sys2Proof.Machine
end

section
/-!
SUPPORT. The multiplications and divisions, the zero divide and CHK as instructions (R275-R279): the
free flags are draws (log 2).
-/

namespace Sys2Proof.Machine

variable {α : Type} {s t u : State} {x : Reg} {ea : EA}

/-! ### Words of a long -/

theorem muluValue_trunc_left (d v : Long) : muluValue (trunc .w d) v = muluValue d v := by
  rw [muluValue, trunc_trunc, muluValue]

theorem mulsValue_trunc_left (d v : Long) : mulsValue (trunc .w d) v = mulsValue d v := by
  rw [mulsValue, signedOf_trunc, mulsValue]

/-- The flags of a quotient (R277, R278). -/
theorem logicFlags_word (old : Bool) (q : Word) :
    logicFlags old .w (q.setWidth 32) =
      { x := old, n := q.getLsbD 15, z := decide (q = 0), v := false, c := false } := by
  have hz : (trunc .w (q.setWidth 32) == 0) = decide (q = 0) := by
    rw [trunc_setWidth (by decide), Bool.beq_eq_decide_eq, decide_eq_decide]
    constructor
    · intro h
      have := congrArg (BitVec.setWidth 16) h
      simpa using this
    · rintro rfl
      rfl
  have hn : msbOf .w (q.setWidth 32) = q.getLsbD 15 := by simp [msbOf]
  rw [logicFlags, hz, hn]

/-! ### Free flags (log 2) -/

/-- The state after `n` more draws. -/
def drawn (n : Nat) (s : State) : State := { s with draws := s.draws + n }

theorem drawn_drawn (m n : Nat) (s : State) : drawn m (drawn n s) = drawn (n + m) s := by
  simp only [drawn, Nat.add_assoc]

/-- A write of the condition codes after an operand and `n` draws, as R277-R279 say it. -/
theorem drawn_setFlags (n : Nat) (s : State) (sz : Size) (ea : EA) (f : Flags) :
    (drawn n (afterEa s sz ea)).setFlags f =
      { (afterEa s sz ea).setFlags f with draws := s.draws + n } := by
  rw [← draws_afterEa s sz ea]
  rfl

/-- Three draws, then what is done with them. -/
theorem yields_threeDraws {k : Bool → Bool → Bool → Exec α} {a : α}
    (h : Yields (k (Config.freeBit s.draws) (Config.freeBit (s.draws + 1))
      (Config.freeBit (s.draws + 2))) (drawn 3 s) a u) :
    Yields (do
      let b ← drawBit
      let b' ← drawBit
      let b'' ← drawBit
      k b b' b'') s a u :=
  (yields_drawBit s).bind <| (yields_drawBit (drawn 1 s)).bind <|
    (yields_drawBit (drawn 2 s)).bind h

/-! ### Multiplications (R275, R276) -/

/-- A product is stored in the whole register, then its flags are written. -/
theorem yields_product (a : α) (x : Reg) (r : Long) (h : t.flags = s.flags) :
    Yields (do
        storeD .l x r
        setLogic .l r
        pure a) t a ((t.setFlags (logicFlags s.flagX .l r)).writeD x r) :=
  (yields_storeD .l x r t).bind <|
    (yields_setFlagsFrom_of (s := s) (t := t.mergeD .l x r) _ h).bind <| yields_pure a _

/-- A multiplication: the low word of the register by the operand (R275, R276). -/
theorem reaches_multiply {value : Long → Long → Long} {time : Word → Cost}
    (hvalue : ∀ d v, value (trunc .w d) v = value d v) (hq : quiet s = true)
    (hr : readable s .w ea = true) :
    let v : Word := (operand s .w ea).setWidth 16
    Reaches (perform (do
        let src ← source .w ea
        let d ← loadD .w x
        storeD .l x (value d src)
        setLogic .l (value d src)
        pure (.completed (time (src.setWidth 16)))) s)
      (completes (time v) (((afterEa s .w ea).setFlags
        (logicFlags s.flagX .l (value (s.readD x) (v.setWidth 32)))).writeD x
          (value (s.readD x) (v.setWidth 32)))) := by
  intro v
  have hv : v.setWidth 32 = operand s .w ea := trunc_operand s .w ea
  rw [hv, ← hvalue]
  exact Yields.reaches <| (yields_source hq hr).bind <| (yields_loadD_afterEa s .w ea x).bind <|
    yields_product _ x _ (flags_afterEa s .w ea)

/-! ### Divisions (R277, R278) -/

/-- The common body of DIVU and DIVS. -/
def divideBody (signed : Bool) (x : Reg) (ea : EA) : Exec Done := do
  let src ← source .w ea
  let divisor : Word := src.setWidth 16
  if divisor = 0 then zeroDivide ea
  else do
    let d ← loadD .l x
    divideResult x (if signed then divsResult d divisor else divuResult d divisor)
    pure (.completed (divTime signed d divisor ea))

theorem exec_divide (signed : Bool) (x : Reg) (ea : EA) (s : State) :
    exec (if signed then .divs x ea else .divu x ea) s = perform (divideBody signed x ea) s := by
  cases signed <;> rfl

/-- A division by a nonzero divisor completes as its result says, at the cost DIV_CYCLES. -/
theorem yields_divideBody {signed : Bool} {v : Word} (hq : quiet s = true)
    (hr : readable s .w ea = true) (hv : (operand s .w ea).setWidth 16 = v) (h0 : v ≠ 0)
    (h : Yields (divideResult x (if signed then divsResult (s.readD x) v
      else divuResult (s.readD x) v)) (afterEa s .w ea) () u) :
    Yields (divideBody signed x ea) s (.completed (divTime signed (s.readD x) v ea)) u := by
  subst hv
  refine (yields_source hq hr).bind ?_
  dsimp only
  rw [if_neg h0]
  exact (yields_loadD_afterEa s .w ea x).bind <| h.bind <| yields_pure _ _

/-- A quotient that fits: remainder and quotient in the register, then the flags. -/
theorem yields_divideResult_some (x : Reg) (rem q : Word) (h : t.flags = s.flags) :
    Yields (divideResult x (some (rem, q))) t ()
      ((t.setFlags { x := s.flagX, n := q.getLsbD 15, z := decide (q = 0), v := false,
                     c := false }).writeD x (rem ++ q)) := by
  rw [← logicFlags_word]
  exact (yields_storeD .l x _ t).bind <|
    yields_setFlagsFrom_of (s := s) (t := t.mergeD .l x (rem ++ q)) _ h

/-- An overflow: V set, C clear, N and Z drawn. -/
theorem yields_divideResult_none (x : Reg) (h : t.flags = s.flags) :
    Yields (divideResult x none) t ()
      ((drawn 2 t).setFlags { x := s.flagX, n := Config.freeBit t.draws,
                              z := Config.freeBit (t.draws + 1), v := true, c := false }) :=
  (yields_drawBit t).bind <| (yields_drawBit (drawn 1 t)).bind <|
    yields_setFlagsFrom_of (s := s) (t := drawn 2 t) _ h

/-- A zero divisor: C clear, N, Z and V drawn, and vector 5. -/
theorem yields_divideBody_zero (signed : Bool) (x : Reg) (hq : quiet s = true)
    (hr : readable s .w ea = true) (h0 : operand s .w ea = 0) :
    Yields (divideBody signed x ea) s (.group2 5 (zeroDivideTime ea))
      ((drawn 3 (afterEa s .w ea)).setFlags
        { x := s.flagX, n := Config.freeBit (afterEa s .w ea).draws,
          z := Config.freeBit ((afterEa s .w ea).draws + 1),
          v := Config.freeBit ((afterEa s .w ea).draws + 2), c := false }) := by
  have hv : (operand s .w ea).setWidth 16 = (0 : Word) := by rw [h0]; rfl
  refine (yields_source hq hr).bind ?_
  dsimp only
  rw [if_pos hv]
  exact yields_threeDraws <| (yields_setFlagsFrom_of (s := s) (t := drawn 3 (afterEa s .w ea)) _
    (flags_afterEa s .w ea)).bind <| yields_pure _ _

/-- Settles O29: the products, and for each division the two results of `yields_divideBody`. -/
theorem multiplyAndDivideInstructions : Obligations.MultiplyAndDivideInstructions := by
  unfold Obligations.MultiplyAndDivideInstructions
  intro s x ea hq hr p v product
  have flags : p.flags = s.flags := flags_afterEa s .w ea
  refine ⟨reaches_multiply (time := (muluTime · ea)) muluValue_trunc_left hq hr,
    reaches_multiply (time := (mulsTime · ea)) mulsValue_trunc_left hq hr, ?_⟩
  intro h0 signed i result cost
  have hi : exec i s = perform (divideBody signed x ea) s := exec_divide signed x ea s
  rw [hi]
  refine ⟨fun rem q h => ?_, fun h => ?_⟩
  · have quotient := yields_divideResult_some x rem q flags
    rw [← h] at quotient
    exact (yields_divideBody hq hr rfl h0 quotient).reaches
  · have overflow := yields_divideResult_none x flags
    rw [← h, drawn_setFlags] at overflow
    exact ⟨_, _, (yields_divideBody hq hr rfl h0 overflow).reaches⟩

/-! ### CHK (R279) -/

/-- CHK once the operand and the register are read and three flags drawn. -/
def chkDecide (d v : Long) (ea : EA) (z o c : Bool) : Exec Done :=
  if signedOf .w d < 0 then do
    setFlagsFrom fun old => { x := old.x, n := true, z := z, v := o, c := c }
    pure (.group2 6 (chkTrapTime ea))
  else if signedOf .w v < signedOf .w d then do
    setFlagsFrom fun old => { x := old.x, n := false, z := z, v := o, c := c }
    pure (.group2 6 (chkTrapTime ea))
  else do
    let n ← drawBit
    setFlagsFrom fun old => { x := old.x, n := n, z := z, v := o, c := c }
    pure (.completed (chkTime ea))

/-- The body of CHK: the operand, the register, three draws and the decision. -/
def chkBody (x : Reg) (ea : EA) : Exec Done := do
  let src ← source .w ea
  let d ← loadD .w x
  let z ← drawBit
  let v ← drawBit
  let c ← drawBit
  chkDecide d src ea z v c

theorem exec_chk (x : Reg) (ea : EA) (s : State) : exec (.chk x ea) s = perform (chkBody x ea) s :=
  rfl

/-- Below zero or above the bound: vector 6, N telling which. -/
theorem yields_chkDecide_out {d v : Long} (z o c : Bool) (h : t.flags = s.flags)
    (hd : signedOf .w d < 0 ∨ signedOf .w v < signedOf .w d) :
    Yields (chkDecide d v ea z o c) t (.group2 6 (chkTrapTime ea))
      (t.setFlags { x := s.flagX, n := decide (signedOf .w d < 0), z := z, v := o, c := c }) := by
  unfold chkDecide
  by_cases hneg : signedOf .w d < 0
  · rw [if_pos hneg, decide_eq_true hneg]
    exact (yields_setFlagsFrom_of (s := s) _ h).bind <| yields_pure _ _
  · rw [if_neg hneg, if_pos (hd.resolve_left hneg), decide_eq_false hneg]
    exact (yields_setFlagsFrom_of (s := s) _ h).bind <| yields_pure _ _

/-- Inside the bounds: N is drawn too. -/
theorem yields_chkDecide_in {d v : Long} (z o c : Bool) (h : t.flags = s.flags)
    (h0 : 0 ≤ signedOf .w d) (hv : signedOf .w d ≤ signedOf .w v) :
    Yields (chkDecide d v ea z o c) t (.completed (chkTime ea)) ((drawn 1 t).setFlags
      { x := s.flagX, n := Config.freeBit t.draws, z := z, v := o, c := c }) := by
  rw [chkDecide, if_neg (Int.not_lt.2 h0), if_neg (Int.not_lt.2 hv)]
  exact (yields_drawBit t).bind <|
    (yields_setFlagsFrom_of (s := s) (t := drawn 1 t) _ h).bind <| yields_pure _ _

/-- CHK is its decision on the operand and the register, after three draws. -/
theorem yields_chkBody {done : Done} {u : Bool → Bool → Bool → State} (hq : quiet s = true)
    (hr : readable s .w ea = true)
    (h : ∀ z o c, Yields (chkDecide (trunc .w (s.readD x)) (operand s .w ea) ea z o c)
      (drawn 3 (afterEa s .w ea)) done (u z o c)) :
    ∃ z o c, Yields (chkBody x ea) s done (u z o c) :=
  ⟨_, _, _, (yields_source hq hr).bind <| (yields_loadD_afterEa s .w ea x).bind <|
    yields_threeDraws (h _ _ _)⟩

/-- Settles O30: `yields_divideBody_zero` with the two divisions, and the two sides of the decision
of CHK. -/
theorem zeroDivideAndCheck : Obligations.ZeroDivideAndCheck := by
  unfold Obligations.ZeroDivideAndCheck
  intro s x ea hq hr p v d
  have quiet := quiet_afterEa hq .w ea
  have flags : (drawn 3 p).flags = s.flags := flags_afterEa s .w ea
  have hd : signedOf .w (trunc .w (s.readD x)) = d := signedOf_trunc .w _
  refine ⟨fun h0 hc i hi => ?_, fun hout hc => ?_, fun hlow hup => ?_⟩
  · have zero (signed : Bool) := (yields_divideBody_zero signed x hq hr h0).traps quiet hc
    simp only [drawn_setFlags, ← exec_divide] at zero
    rcases hi with rfl | rfl
    · exact ⟨_, _, _, zero false⟩
    · exact ⟨_, _, _, zero true⟩
  · obtain ⟨z, o, c, h⟩ := yields_chkBody hq hr fun z o c =>
      yields_chkDecide_out z o c flags (hd.symm ▸ hout)
    have trap := h.traps quiet hc
    rw [drawn_setFlags, hd, ← exec_chk] at trap
    exact ⟨z, o, c, trap⟩
  · obtain ⟨z, o, c, h⟩ := yields_chkBody hq hr fun z o c =>
      yields_chkDecide_in z o c flags (hd.symm ▸ hlow) (hd.symm ▸ hup)
    have done := h.reaches
    rw [drawn_drawn, drawn_setFlags, ← exec_chk] at done
    exact ⟨_, z, o, c, done⟩

end Sys2Proof.Machine
end

section
/-!
SUPPORT. The bit operations (R380-R388): the bit number of both forms, then the test or the change.
-/

namespace Sys2Proof.Machine

variable {s t : State} {sz : Size} {ea : EA} {x : Reg} {b : Long} {n : Nat} {cost : Cost}
  {bitno : Exec Long}

/-! ### The bit number and the operand size (R380) -/

/-- The bit number of a form: of the static one from a word, of the dynamic one from a register. -/
def bitNumber (static : Bool) (x : Reg) : Exec Long := if static then staticBit else dynamicBit x

/-- The bit number is taken before the operand is resolved; that of a word is its low byte. -/
theorem yields_bitNumber (static : Bool) (x : Reg) (hq : quiet s = true)
    (hf : static = true → fetchable s s.pc 1 = true) :
    Yields (bitNumber static x) s (if static then immAt s .b else s.readD x)
      (if static then skipWords 1 s else s) := by
  cases static with
  | false => exact yields_loadD .l x s
  | true => exact yields_immediate (sz := .b) hq (hf rfl)

/-- A bit number from a word is that of its low byte. -/
theorem toNat_immAt_byte (s : State) :
    (immAt s .b).toNat = ((wordAt s s.pc).setWidth 8).toNat :=
  BitVec.toNat_setWidth_of_le (Nat.le_add_right 8 24)

theorem bitSize_eq (ea : EA) : bitSize ea = if isDreg ea then .l else .b := by
  cases ea <;> rfl

theorem bitIndex_bitSize (ea : EA) (b : Long) :
    bitIndex (bitSize ea) b = b.toNat % (if isDreg ea then 32 else 8) := by
  cases ea <;> rfl

/-! ### The test and the changes -/

theorem yields_setZFromBit (v : Long) (n : Nat) (h : t.flags = s.flags) :
    Yields (setZFromBit v n) t () (t.setFlags { s.flags with z := !v.getLsbD n }) :=
  yields_setFlagsFrom_of _ h

/-- Z from the bit, then the changed value. -/
theorem yields_changeBit (op : BitOp) (v : Long) (n : Nat) (h : t.flags = s.flags) :
    Yields (do setZFromBit v n; pure (op v n)) t (op v n)
      (t.setFlags { s.flags with z := !v.getLsbD n }) :=
  (yields_setZFromBit v n h).bind (yields_pure _ _)

section
variable (hb : Yields bitno s b t) (hf : t.flags = s.flags) (hq : quiet t = true)
  (hsz : bitSize ea = sz) (hn : bitIndex (bitSize ea) b = n)
include hb hf hq hsz hn

/-- BTST: Z from the bit of the operand (R381). -/
theorem reaches_bitTestBody (hr : readable t sz ea = true) :
    Reaches (perform (bitTestBody bitno ea cost) s) (completes cost
      ((afterEa t sz ea).setFlags
        { s.flags with z := !(operand t sz ea).getLsbD n })) := by
  subst hsz hn
  have flags : (afterEa t (bitSize ea) ea).flags = s.flags := (flags_afterEa t _ ea).trans hf
  exact Yields.reaches <| hb.bind <| (yields_source hq hr).bind <|
    (yields_setZFromBit _ _ flags).bind <| yields_pure _ _

/-- BCHG, BCLR and BSET: Z from the bit before the change, which goes back to its own place
(R383, R164). -/
theorem reaches_bitChangeBody (op : BitOp) (hw : writable t sz ea = true) :
    Reaches (perform (bitChangeBody op bitno ea cost) s) (completes cost
      (putOperand t sz ea (op (operand t sz ea) n) ((afterEa t sz ea).setFlags
        { s.flags with z := !(operand t sz ea).getLsbD n }))) := by
  subst hsz hn
  have flags : (afterEa t (bitSize ea) ea).flags = s.flags := (flags_afterEa t _ ea).trans hf
  exact Yields.reaches <| hb.bind <|
    (yields_modify hq hw (yields_changeBit op _ _ flags)).bind <| yields_pure _ _

end

/-- Settles O33: `yields_bitNumber`, then `reaches_bitTestBody`, or `reaches_bitChangeBody` with
each change. -/
theorem bitOperations : Obligations.BitOperations := by
  unfold Obligations.BitOperations
  intro s x ea static hq hf s1 bitno sz n v p
  have number : Yields (bitNumber static x) s _ s1 := yields_bitNumber static x hq hf
  have flags : s1.flags = s.flags := by cases static <;> rfl
  have quiet : quiet s1 = true := by cases static <;> exact hq
  have index : bitIndex (bitSize ea) (if static then immAt s .b else s.readD x) = n := by
    rw [bitIndex_bitSize, apply_ite BitVec.toNat, toNat_immAt_byte]
  refine ⟨fun _ _ hr => ?_, fun _ hw => ?_⟩
  · have test (cost : Cost) := reaches_bitTestBody (cost := cost) number flags quiet
      (bitSize_eq ea) index hr
    cases static <;> exact test _
  · have change (op : BitOp) (cost : Cost) := reaches_bitChangeBody (cost := cost) number flags
      quiet (bitSize_eq ea) index op hw
    cases static <;> exact ⟨change changeBit _, change clearBit _, change setBit _⟩

end Sys2Proof.Machine
end

section
/-!
SUPPORT. Accesses and operands with the default fc_change, the one callback that an access calls
(R120), whatever the other three callbacks are: what TAS needs, which has a callback of its own.
What `yields_look` and `SameButBus.congr` ask of a field is given as a term and not left to their
default tactic, which in the joined text waits for the kernel.
-/

namespace Sys2Proof.Machine

variable {α : Type} {s t : State} {sz : Size} {ea : EA} {a : Long}

theorem fcChange_afterEa (h : s.handlers.fcChange = .default) (sz : Size) (ea : EA) :
    (afterEa s sz ea).handlers.fcChange = .default := by
  rwa [afterEa_handlers]

/-! ### Parts of an access -/

theorem yields_driveFc (hd : s.handlers.fcChange = .default) (fc : BitVec 3) :
    Yields (driveFc fc) s () s := fun s' hs =>
  have hd' := (hs.congr (fun s => s.handlers.fcChange) fun _ _ _ => rfl).trans hd
  ⟨driven fc s', driveFc_default hd' fc, (sameButBus_driven fc s').trans hs⟩

theorem yields_busRead (h : accessible s sz a = true) :
    Yields (busRead sz a) s (valueAt s sz a) s := yields_of fun fc calls =>
  ⟨_, busRead_accessible (s := { s with fc := fc, calls := calls }) h,
    sameButBus_iff.2 ⟨fc, calls, rfl⟩⟩

theorem yields_busWrite (h : accessible s sz a = true) (v : Long) :
    Yields (busWrite sz a v) s () (putMem sz a v s) := yields_of fun fc calls =>
  ⟨_, busWrite_accessible (s := { s with fc := fc, calls := calls }) h v,
    sameButBus_iff.2 ⟨fc, calls, rfl⟩⟩

theorem yields_hazardCheck {pc : Long} (h : clearOf pc a sz = true) (s : State) :
    Yields (hazardCheck pc a (bytesOf sz)) s () s := fun s' hs => ⟨s', hazardCheck_clear s' h, hs⟩

theorem yields_fastWord (h : backed s a = true) : Yields (fastWord a) s (wordAt s a) s :=
  yields_of fun fc calls => ⟨_, fastWord_backed (s := { s with fc := fc, calls := calls }) h,
    sameButBus_iff.2 ⟨fc, calls, rfl⟩⟩

/-! ### Accesses (R110, R111, R114, R115) -/

theorem yields_memRead_fcDefault (hd : s.handlers.fcChange = .default)
    (h : accessible s sz a = true) : Yields (memRead .instruction sz a) s (valueAt s sz a) s :=
  (yields_look State.dataFc s fun _ _ _ => rfl).bind <| by
    rw [if_neg (Bool.eq_false_iff.1 (accessible_aligned h))]
    exact (yields_driveFc hd _).bind (yields_busRead h)

theorem yields_memWrite_fcDefault (hd : s.handlers.fcChange = .default)
    (h : storable s s.pc sz a = true) (v : Long) :
    Yields (memWrite .instruction sz a v) s () (putMem sz a v s) := by
  obtain ⟨ha, hc⟩ := Bool.and_eq_true_iff.1 h
  refine (yields_look State.dataFc s fun _ _ _ => rfl).bind ?_
  rw [if_neg (Bool.eq_false_iff.1 (accessible_aligned ha))]
  exact (yields_driveFc hd _).bind <| (yields_busWrite ha v).bind <|
    (yields_look State.pc _ fun _ _ _ => rfl).bind <| yields_hazardCheck hc _

theorem yields_fetchWord_fcDefault (hd : s.handlers.fcChange = .default)
    (h : fetchable s s.pc 1 = true) : Yields fetchWord s (wordAt s s.pc) (skipWords 1 s) := by
  obtain ⟨he, hb⟩ := fetchable_one h
  refine (yields_look State.pc s fun _ _ _ => rfl).bind <|
    (yields_look State.programFc s fun _ _ _ => rfl).bind ?_
  rw [if_neg (Bool.eq_false_iff.1 he)]
  exact (yields_driveFc hd _).bind <| (yields_fastWord hb).bind <|
    (yields_update fun _ hs => hs.setPc (s.pc + 2)).bind <| yields_pure _ _

theorem yields_fetchDisp_fcDefault (hd : s.handlers.fcChange = .default)
    (h : fetchable s s.pc 1 = true) :
    Yields fetchDisp s ((wordAt s s.pc).signExtend 32) (skipWords 1 s) :=
  (yields_fetchWord_fcDefault hd h).bind (yields_pure _ _)

theorem skipWords_one_one (s : State) : skipWords 1 (skipWords 1 s) = skipWords 2 s :=
  congrArg s.setPc (BitVec.add_assoc s.pc 2 2)

theorem yields_fetchLong_fcDefault (hd : s.handlers.fcChange = .default)
    (h : fetchable s s.pc 2 = true) :
    Yields fetchLong s (wordAt s s.pc ++ wordAt s (s.pc + 2)) (skipWords 2 s) := by
  obtain ⟨h1, h2⟩ := fetchable_two h
  rw [← skipWords_one_one]
  exact (yields_fetchWord_fcDefault hd h1).bind <|
    (yields_fetchWord_fcDefault (s := skipWords 1 s) hd h2).bind <| yields_pure _ _

/-! ### Operands (R160, R163) -/

/-- A mode without extension words leaves pc alone. -/
theorem yields_pure_noWords (r : α) (s : State) :
    Yields (pure r : Exec α) s r (skipWords 0 s) := by
  rw [skipWords_zero]
  exact yields_pure r s

/-- Resolving an operand that can be written. -/
theorem yields_resolveEa_fcDefault (hd : s.handlers.fcChange = .default)
    (hr : resolvable s sz ea = true) (hc : ea.inClass .alt = true) :
    Yields (resolveEa sz ea) s (locOf s sz ea) (afterEa s sz ea) := by
  cases ea with
  | pcDisp | pcIndex | imm => cases hc
  | dreg n | areg n => exact yields_pure_noWords _ s
  | ind n => exact (yields_loadA n s).bind <| yields_pure_noWords _ s
  | postInc n =>
    exact (yields_loadA n s).bind <|
      (yields_update fun _ hs => hs.writeA n _).bind <| yields_pure_noWords _ _
  | preDec n =>
    exact (yields_look (fun s => s.readA n - stepOf n sz) s fun _ _ _ => rfl).bind <|
      (yields_update fun _ hs => hs.writeA n _).bind <| yields_pure_noWords _ _
  | disp n =>
    exact (yields_fetchDisp_fcDefault hd hr).bind <| (yields_loadA n _).bind <| yields_pure _ _
  | index n =>
    exact (yields_fetchWord_fcDefault hd hr).bind <|
      (yields_look (fun t => t.readA n + indexValue t (wordAt s s.pc)) _ fun _ _ _ => rfl).bind <|
      yields_pure _ _
  | absW => exact (yields_fetchDisp_fcDefault hd hr).bind <| yields_pure _ _
  | absL => exact (yields_fetchLong_fcDefault hd hr).bind <| yields_pure _ _

end Sys2Proof.Machine
end

section
/-!
SUPPORT. TAS (R390): the flags of the byte, then bit 7, in a register at once and in memory when its
callback allows it.
-/

namespace Sys2Proof.Machine

variable {s t u : State} {sz : Size} {ea : EA} {value : Long} {allow : Bool} {rest : List Answer}

/-! ### The callback (R69, R583) -/

theorem yields_callHandler_default (c : Call) (d : Long) (s : State) :
    Yields (callHandler .default c d) s d s := fun s' hs =>
  ⟨{ s' with calls := s'.calls ++ [c] }, rfl, (sameButBus_iff.2 ⟨s'.fc, _, rfl⟩ :
    SameButBus _ s').trans hs⟩

/-- The host's callback takes its answer, here without moves, from the script (log 1). -/
theorem yields_callHandler_host (c : Call) (d : Long)
    (h : s.script = { value := value, moves := [] } :: rest) :
    Yields (callHandler .host c d) s value { s with script := rest } := yields_of fun fc calls =>
  ⟨_, callHook_answer (s := { s with fc := fc, calls := calls }) h c,
    sameButBus_iff.2 ⟨fc, calls ++ [c], rfl⟩⟩

/-! ### Operands in memory that can be changed (R153) -/

theorem dreg_or_malt (hc : ea.inClass .dalt = true) :
    (∃ n, ea = .dreg n) ∨ ea.inClass .malt = true := by
  cases ea with
  | dreg n => exact .inl ⟨n, rfl⟩
  | _ => exact .inr hc

section
variable (hc : ea.inClass .malt = true)
include hc

theorem inMemory_of_malt : inMemory ea = true := by
  cases ea with
  | dreg n | areg n | pcDisp | pcIndex | imm => cases hc
  | _ => rfl

theorem alt_of_malt : ea.inClass .alt = true := by
  cases ea with
  | dreg n | areg n | pcDisp | pcIndex | imm => cases hc
  | _ => rfl

theorem isDreg_of_malt : isDreg ea = false := by
  cases ea with
  | dreg n => cases hc
  | _ => rfl

theorem locOf_of_malt (s : State) (sz : Size) : locOf s sz ea = .mem (eaAddr s sz ea) := by
  cases ea with
  | dreg n | areg n | pcDisp | pcIndex | imm => cases hc
  | _ => rfl

theorem operand_of_malt (s : State) (sz : Size) :
    operand s sz ea = valueAt s sz (eaAddr s sz ea) := by
  cases ea with
  | dreg n | areg n | pcDisp | pcIndex | imm => cases hc
  | _ => rfl

theorem putOperand_of_malt (s t : State) (sz : Size) (v : Long) :
    putOperand s sz ea v t = putMem sz (eaAddr s sz ea) v t := by
  cases ea with
  | dreg n | areg n | pcDisp | pcIndex | imm => cases hc
  | _ => rfl

end

/-- The operand is read at the place it resolved to. -/
theorem yields_readLoc_fcDefault (hd : s.handlers.fcChange = .default)
    (hc : ea.inClass .malt = true) (hr : readable s sz ea = true) :
    Yields (readLoc sz (locOf s sz ea)) (afterEa s sz ea) (operand s sz ea) (afterEa s sz ea) := by
  have ha : accessible (afterEa s sz ea) sz (eaAddr s sz ea) = true :=
    (accessible_congr (afterEa_map s sz ea) sz _).trans
      (accessible_of_readable hr (inMemory_of_malt hc))
  rw [locOf_of_malt hc, operand_of_malt hc, ← valueAt_congr (afterEa_mem s sz ea)]
  exact yields_memRead_fcDefault (fcChange_afterEa hd sz ea) ha

/-! ### The instruction (R390) -/

/-- The state in which TAS has read its byte and set the flags. -/
def tested (s : State) (ea : EA) : State :=
  (afterEa s .b ea).setFlags (logicFlags s.flagX .b (operand s .b ea))

theorem tested_handlers (s : State) (ea : EA) : (tested s ea).handlers = s.handlers :=
  afterEa_handlers s .b ea

theorem tested_script (s : State) (ea : EA) : (tested s ea).script = s.script := by
  cases ea with
  | postInc n | preDec n => exact State.writeA_script s n _
  | _ => rfl

theorem yields_setLogic_tested (s : State) (ea : EA) :
    Yields (setLogic .b (operand s .b ea)) (afterEa s .b ea) () (tested s ea) :=
  yields_setFlagsFrom_of _ (flags_afterEa s .b ea)

/-- The end of TAS, its flags being set: the write, for memory after the callback. -/
def tasWrite (ea : EA) (loc : Loc) (v : Long) : Exec Done := do
  match loc with
  | .dreg n => storeD .b n (v ||| 0x80)
  | _ => do
    let h ← look State.handlers
    let allow ← callHandler h.tasInstr .tasInstr 1
    if allow ≠ 0 then writeLoc .b loc (v ||| 0x80)
    else pure ()
  pure (.completed (tasTime ea))

theorem exec_tas (ea : EA) (s : State) :
    exec (.tas ea) s = perform (do
      let loc ← resolveEa .b ea
      let v ← readLoc .b loc
      setLogic .b v
      tasWrite ea loc v) s := rfl

/-- TAS of a register calls nothing. -/
theorem reaches_tas_dreg (n : Reg) (s : State) :
    Reaches (exec (.tas (.dreg n)) s) (completes (tasTime (.dreg n))
      (putOperand s .b (.dreg n) (operand s .b (.dreg n) ||| 0x80) (tested s (.dreg n)))) := by
  rw [exec_tas]
  exact Yields.reaches <| (yields_pure_noWords (Loc.dreg n) s).bind <|
    (yields_loadD .b n _).bind <| (yields_setLogic_tested s (.dreg n)).bind <|
    (yields_storeD .b n _ _).bind <| yields_pure _ _

/-- TAS of a byte in memory, given what its callback answers and the state it leaves. -/
theorem reaches_tas_malt (hd : s.handlers.fcChange = .default) (hc : ea.inClass .malt = true)
    (hw : writable s .b ea = true)
    (hcall : Yields (callHandler s.handlers.tasInstr .tasInstr 1) (tested s ea) value u)
    (ha : (value != 0) = allow) (hh : u.handlers = (tested s ea).handlers)
    (hmap : u.map = (tested s ea).map) (hpc : u.pc = (tested s ea).pc) :
    Reaches (exec (.tas ea) s) (completes (tasTime ea)
      (if allow || isDreg ea then putOperand s .b ea (operand s .b ea ||| 0x80) u else u)) := by
  subst ha
  have hu : u.handlers.fcChange = .default := by rwa [hh, tested_handlers]
  have hp := storable_of_writable hw (.refl (afterEa s .b ea)) (inMemory_of_malt hc)
  have hs : storable u u.pc .b (eaAddr s .b ea) = true := by
    rw [hpc, storable_congr hmap]
    exact hp
  refine Yields.reaches <|
    (yields_resolveEa_fcDefault hd (resolvable_of_writable hw) (alt_of_malt hc)).bind <|
    (yields_readLoc_fcDefault hd hc (readable_of_writable hw)).bind <|
    (yields_setLogic_tested s ea).bind ?_
  rw [locOf_of_malt hc, putOperand_of_malt hc, isDreg_of_malt hc, Bool.or_false]
  rw [← tested_handlers s ea] at hcall
  refine (yields_look State.handlers (tested s ea) fun _ _ _ => rfl).bind <| hcall.bind ?_
  by_cases h0 : value = 0
  · subst h0
    exact yields_pure _ u
  · rw [if_pos h0, if_pos (bne_iff_ne.2 h0)]
    exact (yields_memWrite_fcDefault hu hs _).bind <| yields_pure _ _

/-- Settles O34: a register by `reaches_tas_dreg`, memory by `reaches_tas_malt` with the answer of
each callback. -/
theorem testAndSet : Obligations.TestAndSet := by
  unfold Obligations.TestAndSet
  intro s ea hc q hq hw v p ends
  have hd : s.handlers.fcChange = .default := congrArg Handlers.fcChange (quiet_handlers hq)
  rcases dreg_or_malt hc with ⟨n, rfl⟩ | hm
  · exact ⟨fun _ => reaches_tas_dreg n s, fun _ _ h => absurd h.symm Bool.false_ne_true⟩
  · refine ⟨fun h => ?_, fun value rest _ hh hscript => ?_⟩
    · have hh : s.handlers.tasInstr = .default :=
        h.resolve_left (Bool.eq_false_iff.1 (isDreg_of_malt hm))
      have call := yields_callHandler_default .tasInstr 1 (tested s ea)
      rw [← hh] at call
      exact reaches_tas_malt hd hm hw call rfl rfl rfl rfl
    · have call := yields_callHandler_host .tasInstr 1 ((tested_script s ea).trans hscript)
      rw [← hh] at call
      exact reaches_tas_malt hd hm hw call rfl rfl rfl rfl

end Sys2Proof.Machine
end

section
/-!
SUPPORT. Decimal arithmetic: `bcdOfNat` and `bcdToNat` are inverse below 100, and `Dec` of R400
takes 100 off a total, or adds it, exactly when it carries.
-/

namespace Sys2Proof.Machine

/-! ### The two digits (R400) -/

section
variable {k : Nat} (hk : k < 100)
include hk

theorem bcdOfNat_toNat : (bcdOfNat k).toNat = 16 * (k / 10) + k % 10 :=
  Nat.mod_eq_of_lt (by omega)

theorem bcdOfNat_highDigit : (bcdOfNat k >>> 4).toNat = k / 10 := by
  rw [BitVec.toNat_ushiftRight, bcdOfNat_toNat hk, Nat.shiftRight_eq_div_pow]
  omega

theorem bcdOfNat_lowDigit : (bcdOfNat k &&& 0x0F).toNat = k % 10 := by
  have low : (bcdOfNat k &&& 0x0F).toNat = (bcdOfNat k).toNat % 2 ^ 4 :=
    (BitVec.toNat_and ..).trans (Nat.and_two_pow_sub_one_eq_mod _ 4)
  rw [low, bcdOfNat_toNat hk]
  omega

theorem bcdValid_bcdOfNat : bcdValid (bcdOfNat k) = true := by
  rw [bcdValid, bcdOfNat_highDigit hk, bcdOfNat_lowDigit hk, Bool.and_eq_true, decide_eq_true_iff,
    decide_eq_true_iff]
  omega

theorem bcdToNat_bcdOfNat : bcdToNat (bcdOfNat k) = k := by
  rw [bcdToNat, bcdOfNat_highDigit hk, bcdOfNat_lowDigit hk, Nat.div_add_mod]

end

theorem bcdToNat_lt_of_bcdValid {b : Byte} (hb : bcdValid b = true) : bcdToNat b < 100 := by
  rw [bcdValid, Bool.and_eq_true, decide_eq_true_iff, decide_eq_true_iff] at hb
  rw [bcdToNat]
  omega

/-! ### The result and the carry (R400) -/

section
variable {op : BcdOp} {s d : Byte} {x : Bool} (hs : bcdValid s = true) (hd : bcdValid d = true)
include hs hd

/-- `Dec` on valid operands, without BCD_INVALID. -/
theorem bcdResult_of_valid : bcdResult op s d x =
    (bcdOfNat (bcdTotal op s d x % 100).toNat,
      if op = .abcd then decide (100 ≤ bcdTotal op s d x) else decide (bcdTotal op s d x < 0)) := by
  rw [bcdResult, hs, hd]
  cases op with
  | abcd | sbcd | nbcd => rfl

/-- The result byte is a valid one, and holds the total modulo 100. -/
theorem bcdResult_byte : bcdValid (bcdResult op s d x).1 = true ∧
    (bcdToNat (bcdResult op s d x).1 : Int) = bcdTotal op s d x % 100 := by
  have hk : (bcdTotal op s d x % 100).toNat < 100 := by omega
  rw [bcdResult_of_valid hs hd, bcdToNat_bcdOfNat hk]
  exact ⟨bcdValid_bcdOfNat hk, by omega⟩

theorem bcdTotal_abcd_bounds : 0 ≤ bcdTotal .abcd s d x ∧ bcdTotal .abcd s d x < 200 := by
  have := bcdToNat_lt_of_bcdValid hs
  have := bcdToNat_lt_of_bcdValid hd
  have := toNat_le_one x
  rw [bcdTotal, toInt_eq_toNat]
  omega

theorem bcdTotal_borrow_bounds (hop : op ≠ .abcd) :
    -100 ≤ bcdTotal op s d x ∧ bcdTotal op s d x < 100 := by
  have := bcdToNat_lt_of_bcdValid hs
  have := bcdToNat_lt_of_bcdValid hd
  have := toNat_le_one x
  cases op with
  | abcd => exact absurd rfl hop
  | sbcd | nbcd =>
    rw [bcdTotal, toInt_eq_toNat]
    omega

/-- ABCD: the carry holds the 100 that the result byte lacks. -/
theorem bcdResult_abcd_total :
    (bcdToNat (bcdResult .abcd s d x).1 : Int) + 100 * (bcdResult .abcd s d x).2.toInt =
      bcdTotal .abcd s d x := by
  obtain ⟨lower, upper⟩ := bcdTotal_abcd_bounds (x := x) hs hd
  rw [(bcdResult_byte hs hd).2, bcdResult_of_valid hs hd, if_pos rfl]
  by_cases carry : 100 ≤ bcdTotal .abcd s d x
  · rw [decide_eq_true carry, Bool.toInt_true]
    omega
  · rw [decide_eq_false carry, Bool.toInt_false]
    omega

/-- SBCD and NBCD: the borrow is the 100 that the result byte has too much. -/
theorem bcdResult_borrow_total (hop : op ≠ .abcd) :
    (bcdToNat (bcdResult op s d x).1 : Int) - 100 * (bcdResult op s d x).2.toInt =
      bcdTotal op s d x := by
  obtain ⟨lower, upper⟩ := bcdTotal_borrow_bounds (x := x) hs hd hop
  rw [(bcdResult_byte hs hd).2, bcdResult_of_valid hs hd, if_neg hop]
  by_cases borrow : bcdTotal op s d x < 0
  · rw [decide_eq_true borrow, Bool.toInt_true]
    omega
  · rw [decide_eq_false borrow, Bool.toInt_false]
    omega

end

/-- Settles O6: `bcdResult_byte` with `bcdResult_abcd_total`, or with `bcdResult_borrow_total`; NBCD's
source 0 is a valid operand. -/
theorem decimalResults : Obligations.DecimalResults := by
  unfold Obligations.DecimalResults
  intro s d x hs hd
  have h0 : bcdValid 0 = true := by decide
  exact ⟨⟨(bcdResult_byte hs hd).1, bcdResult_abcd_total hs hd⟩,
    ⟨(bcdResult_byte hs hd).1, bcdResult_borrow_total hs hd (by decide)⟩,
    ⟨(bcdResult_byte h0 hd).1, bcdResult_borrow_total h0 hd (by decide)⟩⟩

end Sys2Proof.Machine
end
